-- ==== Sys2Proof/Word.lean ====
section
/-! DEFINITION. The units of SHP: the byte and the block (spec/20_memory.md R60, spec/00_scope.md R9, R10). -/

namespace Sys2Proof

/-- The addressable unit, one byte of 8 bits, bit 0 the least significant (R9, R60). -/
abbrev Byte := BitVec 8

/-- The block `B` of R10: a finite sequence of bytes, offset 0 first. It is SHP's one address space (R60); a list has
exactly one form for a given length and contents, so equal blocks are equal data. -/
abbrev Block := List Byte

end Sys2Proof
end

