-- ==== Sys2Proof/Config.lean ====
section
/-! DEFINITION. The constants of the block format, the names of the three errors and the header record
(spec/00_scope.md R4, R5; spec/60_exceptions.md R200; spec/10_state.md R30). Nothing is left to an implementation: the
spec declares no free value of SHP (its one open parameter, `NONXA_POLICY` of D20, belongs to the host). -/

namespace Sys2Proof

/-- `BLOCK_LEN` (R4). -/
def blockLen : Nat := 2352

/-- `SYNC_LEN` (R5). -/
def syncLen : Nat := 12

/-- The complete list of errors SHP can raise (R200). -/
inductive BlockError where
  /-- The block is not exactly 2352 bytes long (R201). -/
  | badLength
  /-- One of its first 12 bytes is not the sync pattern's (R202). -/
  | badSync
  /-- Its byte 15 is not 0, 1 or 2 (R203). -/
  | unknownMode
deriving DecidableEq, Repr

/-- The raw bytes at offsets 12 to 19, in the names of R30: what PARSE reads of a block beside its length and its sync,
and what the capture registers hold. -/
structure Header where
  hMin     : Byte
  hSec     : Byte
  hSect    : Byte
  hMode    : Byte
  sFile    : Byte
  sChan    : Byte
  sSubmode : Byte
  sCi      : Byte
deriving DecidableEq, Repr

end Sys2Proof
end

