-- ==== Sys2Proof/Syntax.lean ====
section
/-! DEFINITION. The 21 rows of spec/opcode_table.json: four sector classes and seventeen field operations (R13, R91).
An operand is a raw byte of the block; what is made of it (masking, one bit of it, BCD) is the operation's meaning. -/

namespace Sys2Proof

/-- One constructor per row of the opcode table. A class carries the bytes its header bit string names (R82, R83); a
field operation carries the byte or bytes it reads (R112 to R143, R165). -/
inductive Instr where
  /-- `SEC.M0` (R157): minute, second, sector. -/
  | secM0 (mm ss ff : Byte)
  /-- `SEC.M1` (R158): minute, second, sector. -/
  | secM1 (mm ss ff : Byte)
  /-- `SEC.M2F1` (R159): minute, second, sector, and the subheader bytes 16 to 19; bit 5 of `submode` is 0. -/
  | secM2F1 (mm ss ff file chan submode ci : Byte)
  /-- `SEC.M2F2` (R160): as `secM2F1`; bit 5 of `submode` is 1. -/
  | secM2F2 (mm ss ff file chan submode ci : Byte)
  /-- `DEC.MIN` (R112): the byte at offset 12. -/
  | decMin (b : Byte)
  /-- `DEC.SEC` (R113): the byte at offset 13. -/
  | decSec (b : Byte)
  /-- `DEC.SECT` (R114): the byte at offset 14. -/
  | decSect (b : Byte)
  /-- `EXT.MODE` (R121): the byte at offset 15. -/
  | extMode (b : Byte)
  /-- `EXT.FILE` (R122): the byte at offset 16. -/
  | extFile (b : Byte)
  /-- `EXT.CHAN` (R123): the whole byte at offset 17. -/
  | extChan (b : Byte)
  /-- `EXT.SUBMODE` (R124): the byte at offset 18. -/
  | extSubmode (b : Byte)
  /-- `EXT.CI` (R125): the byte at offset 19. -/
  | extCi (b : Byte)
  /-- `FLG.EOR` (R136): the submode byte, offset 18. -/
  | flgEor (submode : Byte)
  /-- `FLG.VIDEO` (R137). -/
  | flgVideo (submode : Byte)
  /-- `FLG.AUDIO` (R138). -/
  | flgAudio (submode : Byte)
  /-- `FLG.DATA` (R139). -/
  | flgData (submode : Byte)
  /-- `FLG.TRIGGER` (R140). -/
  | flgTrigger (submode : Byte)
  /-- `FLG.FORM` (R141). -/
  | flgForm (submode : Byte)
  /-- `FLG.REALTIME` (R142). -/
  | flgRealtime (submode : Byte)
  /-- `FLG.EOF` (R143). -/
  | flgEof (submode : Byte)
  /-- `IS_FILLER` (R165): the byte at offset 15 and, for mode 2 alone, the submode byte. -/
  | isFiller (mode : Byte) (submode : Option Byte)
deriving DecidableEq, Repr

end Sys2Proof
end

