-- ==== Sys2Proof/WellFormed.lean ====
section
/-! DEFINITION. Which instructions a block can give: the function bit of a mode 2 class (R83) and the operands of
`IS_FILLER` (R165). Every other operand takes all 256 byte values (R87, R111, R122 to R125, R135). -/

namespace Sys2Proof

/-- The check on an instruction as a term. -/
def Instr.wellFormed : Instr → Bool
  | .secM0 _ _ _ => true
  | .secM1 _ _ _ => true
  | .secM2F1 _ _ _ _ _ submode _ => !submode.getLsbD 5
  | .secM2F2 _ _ _ _ _ submode _ => submode.getLsbD 5
  | .decMin _ => true
  | .decSec _ => true
  | .decSect _ => true
  | .extMode _ => true
  | .extFile _ => true
  | .extChan _ => true
  | .extSubmode _ => true
  | .extCi _ => true
  | .flgEor _ => true
  | .flgVideo _ => true
  | .flgAudio _ => true
  | .flgData _ => true
  | .flgTrigger _ => true
  | .flgForm _ => true
  | .flgRealtime _ => true
  | .flgEof _ => true
  | .isFiller mode submode =>
      match submode with
      | none => mode == 0 || mode == 1
      | some _ => mode == 2

/-- Whether the row is one of the four sector classes, the rows a block selects (R83, R91). -/
def Instr.isClass : Instr → Bool
  | .secM0 _ _ _ => true
  | .secM1 _ _ _ => true
  | .secM2F1 _ _ _ _ _ _ _ => true
  | .secM2F2 _ _ _ _ _ _ _ => true
  | .decMin _ => false
  | .decSec _ => false
  | .decSect _ => false
  | .extMode _ => false
  | .extFile _ => false
  | .extChan _ => false
  | .extSubmode _ => false
  | .extCi _ => false
  | .flgEor _ => false
  | .flgVideo _ => false
  | .flgAudio _ => false
  | .flgData _ => false
  | .flgTrigger _ => false
  | .flgForm _ => false
  | .flgRealtime _ => false
  | .flgEof _ => false
  | .isFiller _ _ => false

end Sys2Proof
end

