-- ==== Sys2Proof/Decode.lean ====
section
/-! DEFINITION. From bytes to an instruction and back (spec/30_encoding.md R80 to R88): the offsets of R6, MemRead of
R62, the class selection of R83, the decode order of R84, the field operations a class runs (R91), the encoder, and the
opcode table's 192-bit words (R82). -/

namespace Sys2Proof

/-- `SYNC` (R5): `00`, ten times `FF`, `00`. -/
def sync : List Byte := [0x00, 0xFF, 0xFF, 0xFF, 0xFF, 0xFF, 0xFF, 0xFF, 0xFF, 0xFF, 0xFF, 0x00]

/-- `OFF_MIN`, `OFF_SEC`, `OFF_SECT` (R6, decision D1). -/
def offMin : Nat := 12
def offSec : Nat := 13
def offSect : Nat := 14
/-- `OFF_MODE`, `OFF_FILE`, `OFF_CHAN`, `OFF_SUBMODE`, `OFF_CI` (R6). -/
def offMode : Nat := 15
def offFile : Nat := 16
def offChan : Nat := 17
def offSubmode : Nat := 18
def offCi : Nat := 19

/-- `MemRead(i, 1)` (R11, R62): the byte at offset `i`, nothing outside the block. -/
def memRead (B : Block) (i : Nat) : Option Byte := B[i]?

/-- Bit 5 of the submode byte, the function bit `form2` (R81, R83). -/
def form2Bit (submode : Byte) : Bool := submode.getLsbD 5

/-- The eight bytes at offsets 12 to 19, when the block has them. -/
def readHeader (B : Block) : Option Header :=
  match memRead B offMin, memRead B offSec, memRead B offSect, memRead B offMode,
        memRead B offFile, memRead B offChan, memRead B offSubmode, memRead B offCi with
  | some mm, some ss, some ff, some m, some f, some c, some sm, some ci => some ⟨mm, ss, ff, m, f, c, sm, ci⟩
  | _, _, _, _, _, _, _, _ => none

/-- The opcode map of R83, by the whole mode byte and bit 5 of the submode byte; R203 for every other mode byte. -/
def selectClass (h : Header) : Except BlockError Instr :=
  if h.hMode = 0 then .ok (.secM0 h.hMin h.hSec h.hSect)
  else if h.hMode = 1 then .ok (.secM1 h.hMin h.hSec h.hSect)
  else if h.hMode = 2 then
    if form2Bit h.sSubmode then .ok (.secM2F2 h.hMin h.hSec h.hSect h.sFile h.sChan h.sSubmode h.sCi)
    else .ok (.secM2F1 h.hMin h.hSec h.hSect h.sFile h.sChan h.sSubmode h.sCi)
  else .error .unknownMode

/-- The decoder, in the order of R84: the length, the sync, the mode, the class. Total on any bytes. A block of the
right length has all eight header bytes, so the arm without a header is never reached (R62). -/
def decode (B : Block) : Except BlockError Instr :=
  if B.length ≠ blockLen then .error .badLength
  else if B.take syncLen ≠ sync then .error .badSync
  else
    match readHeader B with
    | some h => selectClass h
    | none => .error .badLength

/-- The field operations an instruction runs, each with its operand, in PARSE's order (R155, R159; the rows'
`applies_to`). The submode byte is not read for modes 0 and 1 (R61, R165). A field operation runs no other. -/
def fieldOps : Instr → List Instr
  | .secM0 mm ss ff => [.decMin mm, .decSec ss, .decSect ff, .extMode 0, .isFiller 0 none]
  | .secM1 mm ss ff => [.decMin mm, .decSec ss, .decSect ff, .extMode 1, .isFiller 1 none]
  | .secM2F1 mm ss ff f c sm ci => mode2Ops mm ss ff f c sm ci
  | .secM2F2 mm ss ff f c sm ci => mode2Ops mm ss ff f c sm ci
  | .decMin _ => []
  | .decSec _ => []
  | .decSect _ => []
  | .extMode _ => []
  | .extFile _ => []
  | .extChan _ => []
  | .extSubmode _ => []
  | .extCi _ => []
  | .flgEor _ => []
  | .flgVideo _ => []
  | .flgAudio _ => []
  | .flgData _ => []
  | .flgTrigger _ => []
  | .flgForm _ => []
  | .flgRealtime _ => []
  | .flgEof _ => []
  | .isFiller _ _ => []
where
  /-- All seventeen, for a mode 2 block. -/
  mode2Ops (mm ss ff f c sm ci : Byte) : List Instr :=
    [.decMin mm, .decSec ss, .decSect ff, .extMode 2, .extFile f, .extChan c, .extSubmode sm, .extCi ci,
     .flgEor sm, .flgVideo sm, .flgAudio sm, .flgData sm, .flgTrigger sm, .flgForm sm, .flgRealtime sm, .flgEof sm,
     .isFiller 2 (some sm)]

/-- A block whose first bytes are the sync and `header`, and whose other bytes are 0 (the notation of R89). -/
def blockOf (header : List Byte) : Block :=
  sync ++ header ++ List.replicate (blockLen - (syncLen + header.length)) 0

/-- The encoder: the block of a class with every byte the class ignores at 0 (R81, R83). A field operation has no block
of its own, since its row selects nothing (R91). -/
def encode : Instr → Option Block
  | .secM0 mm ss ff => some (blockOf [mm, ss, ff, 0])
  | .secM1 mm ss ff => some (blockOf [mm, ss, ff, 1])
  | .secM2F1 mm ss ff f c sm ci => some (blockOf [mm, ss, ff, 2, f, c, sm, ci])
  | .secM2F2 mm ss ff f c sm ci => some (blockOf [mm, ss, ff, 2, f, c, sm, ci])
  | .decMin _ => none
  | .decSec _ => none
  | .decSect _ => none
  | .extMode _ => none
  | .extFile _ => none
  | .extChan _ => none
  | .extSubmode _ => none
  | .extCi _ => none
  | .flgEor _ => none
  | .flgVideo _ => none
  | .flgAudio _ => none
  | .flgData _ => none
  | .flgTrigger _ => none
  | .flgForm _ => none
  | .flgRealtime _ => none
  | .flgEof _ => none
  | .isFiller _ _ => none

/-- The `n` low bytes of a number, the most significant first (R82: byte 0 of a block is the most significant byte of
the table's 192-bit number). -/
def bytesMsbFirst : Nat → Nat → List Byte
  | 0, _ => []
  | n + 1, w => BitVec.ofNat 8 (w / 256 ^ n) :: bytesMsbFirst n w

/-- The `n` low bytes of a number, the least significant first. -/
def bytesLsbFirst : Nat → Nat → List Byte
  | 0, _ => []
  | n + 1, w => BitVec.ofNat 8 w :: bytesLsbFirst n (w / 256)

/-- The block whose first bytes are `bytes` and whose other bytes, up to 2352, are 0. -/
def padBlock (bytes : List Byte) : Block := bytes ++ List.replicate (blockLen - bytes.length) 0

/-- The block that a word of the opcode table stands for. DEDUCED (log entry 7): the table numbers a header as ONE
192-bit number with byte 0 most significant (R82), so that reading comes first; a word laid out the other way round
(bit 0 in the first byte) is taken as such where only that reading is a sector. No word is a sector both ways. -/
def tableBlock (nbits w : Nat) : Block :=
  let b := padBlock (bytesMsbFirst (nbits / 8) w)
  let l := padBlock (bytesLsbFirst (nbits / 8) w)
  match decode b with
  | .ok _ => b
  | .error _ =>
      match decode l with
      | .ok _ => l
      | .error _ => b

/-- What the decoder reads from a word of the opcode table. -/
def decodeTableWord (nbits w : Nat) : Option Instr :=
  match decode (tableBlock nbits w) with
  | .ok i => some i
  | .error _ => none

end Sys2Proof
end

