-- ==== Sys2Proof/Machine/State.lean ====
section
/-! DEFINITION. The state of SHP (spec/10_state.md R20 to R34), the ports (R180), the host's inputs, the ways a step
can stop, and the state after RESET (R31). -/

namespace Sys2Proof.Machine

open Sys2Proof

/-- The outcome codes of `STATUS` (R25); codes 5 to 7 are never written, and the type has no value for them. -/
inductive Status where
  | none
  | ok
  | badLength
  | badSync
  | unknownMode
deriving DecidableEq, Repr

/-- The output ports of R180. -/
inductive OutPort where
  | status | err | stickyErr | done
  | hdrPresent | xaPresent | csumPresent | eccPresent
  | minute | second | sector | mode | isFiller | dataOff | dataLen
  | csumOff | csumLen | eccOff | eccLen
  | file | channel | submode | codinginfo
  | eor | typeVideo | typeAudio | typeData | trigger | form | realtime | eof
deriving DecidableEq, Repr

/-- One thing the host does to SHP (R181, R155, R220). -/
inductive Input where
  /-- One rising edge of `clk` with these input port levels (R180, R181). -/
  | edge (rst inValid : Bool) (inData : Byte) (inLast : Bool)
  /-- The transaction level's `PARSE(B)` (R12, R155). -/
  | parse (B : Block)
  /-- The host uses the value of an output port (R220, R236); no clock edge. -/
  | read (p : OutPort)
deriving DecidableEq, Repr

/-- The descriptor registers (R22), each `none` while it is absent (R11, R24). -/
structure Descriptor where
  minute     : Option (BitVec 8)
  second     : Option (BitVec 8)
  sector     : Option (BitVec 8)
  mode       : Option (BitVec 2)
  isFiller   : Option Bool
  dataOff    : Option (BitVec 12)
  dataLen    : Option (BitVec 12)
  csumOff    : Option (BitVec 12)
  csumLen    : Option (BitVec 12)
  eccOff     : Option (BitVec 12)
  eccLen     : Option (BitVec 12)
  file       : Option (BitVec 8)
  channel    : Option (BitVec 5)
  submode    : Option (BitVec 8)
  codinginfo : Option (BitVec 8)
  eor        : Option Bool
  typeVideo  : Option Bool
  typeAudio  : Option Bool
  typeData   : Option Bool
  trigger    : Option Bool
  form       : Option (BitVec 2)
  realtime   : Option Bool
  eof        : Option Bool
deriving DecidableEq, Repr

/-- Every descriptor register absent (R31, R206). -/
def Descriptor.absent : Descriptor where
  minute := none
  second := none
  sector := none
  mode := none
  isFiller := none
  dataOff := none
  dataLen := none
  csumOff := none
  csumLen := none
  eccOff := none
  eccLen := none
  file := none
  channel := none
  submode := none
  codinginfo := none
  eor := none
  typeVideo := none
  typeAudio := none
  typeData := none
  trigger := none
  form := none
  realtime := none
  eof := none

/-- The whole state: R20's registers, and the inputs the host has yet to present (the model's own field: R34 makes the
inputs parameters of a step, and a step here is a function of the state alone). -/
structure State where
  /-- `STATUS` (R25). -/
  status    : Status
  /-- `STICKY_ERR` (R26). -/
  stickyErr : Bool
  /-- `DONE` (R27). -/
  done      : Bool
  /-- The descriptor registers (R22). -/
  desc      : Descriptor
  /-- `CNT` (R28). -/
  cnt       : BitVec 12
  /-- `SYNC_OK` (R29). -/
  syncOk    : Bool
  /-- The eight capture registers (R30). -/
  cap       : Header
  /-- The host's inputs still to come, the next one first. -/
  inputs    : List Input
deriving DecidableEq, Repr

/-- Why a step stops. -/
inductive Fault where
  /-- The host used the value of a descriptor register whose group is absent (R24, R236, U1, U9). Raised by `hostRead`
  alone. Safe: hardware drives zeros that mean nothing, and the model goes no further. -/
  | absentRegister (p : OutPort)
deriving DecidableEq, Repr

/-- Why a step has no meaning. -/
inductive Refusal where
  /-- The instruction has no meaning in the model. Raised by an arm of `exec` alone; no arm raises it. Safe. -/
  | notModelled (mnemonic : String)
deriving DecidableEq, Repr

/-- The state after RESET (R31, R182), with no input pending. -/
def State.reset : State where
  status := .none
  stickyErr := false
  done := false
  desc := Descriptor.absent
  cnt := 0
  syncOk := true
  cap := ⟨0, 0, 0, 0, 0, 0, 0, 0⟩
  inputs := []

end Sys2Proof.Machine
end

