-- ==== Sys2Proof/Machine/Operands.lean ====
section
/-! DEFINITION. How an operand becomes a register's value (R85): the BCD decoder (R110), the mode and channel fields
(R121, R123), and the byte ranges of each class (R7). -/

namespace Sys2Proof.Machine

open Sys2Proof

/-- `BCD2BIN(b) = 10 * b[7:4] + b[3:0]` (R110), the same arithmetic for nibbles above 9 (R111, decision D2). The
largest result is 165, so the 8 bits lose nothing (R115). -/
def bcd2bin (b : Byte) : BitVec 8 :=
  BitVec.ofNat 8 (10 * (b.extractLsb' 4 4).toNat + (b.extractLsb' 0 4).toNat)

/-- The mode field: `m[1:0]` of a mode byte that is 0, 1 or 2, nothing of any other (R121). The whole byte is compared. -/
def modeOf (m : Byte) : Option (BitVec 2) :=
  if m = 0 ∨ m = 1 ∨ m = 2 then some (m.extractLsb' 0 2) else none

/-- `channel`, the byte masked with `0x1F` (R123). -/
def channelOf (b : Byte) : BitVec 5 := (b &&& 0x1F).setWidth 5

/-- A byte range of the block: its offset and its length (R7). -/
abbrev Range := BitVec 12 × BitVec 12

/-- Mode 0: data of length 0, held at offset 0 (R157, decision D7). -/
def dataM0 : Range := (0, 0)
def dataM1 : Range := (16, 2048)
def dataM2F1 : Range := (24, 2048)
def dataM2F2 : Range := (24, 2324)
def csumM1 : Range := (2064, 4)
def csumM2F1 : Range := (2072, 4)
def csumM2F2 : Range := (2348, 4)
def eccM1 : Range := (2076, 276)
def eccM2F1 : Range := (2076, 276)

/-- The bytes `B[off..off+len)` of a block (R10, R164). -/
def slice (B : Block) (off len : BitVec 12) : List Byte := (B.drop off.toNat).take len.toNat

end Sys2Proof.Machine
end

