-- ==== Sys2Proof/Machine/Flags.lean ====
section
/-! DEFINITION. The one-bit results: the submode flags and the form (R135 to R143), the filler predicate (R165), the
codes of STATUS and the `err` level (R25), and the presence of the four groups (R23). -/

namespace Sys2Proof.Machine

open Sys2Proof

/-- `s[0]` (R136). -/
def eorOf (s : Byte) : Bool := s.getLsbD 0
/-- `s[1]` (R137). -/
def videoOf (s : Byte) : Bool := s.getLsbD 1
/-- `s[2]` (R138). -/
def audioOf (s : Byte) : Bool := s.getLsbD 2
/-- `s[3]` (R139). -/
def dataOf (s : Byte) : Bool := s.getLsbD 3
/-- `s[4]` (R140). -/
def triggerOf (s : Byte) : Bool := s.getLsbD 4
/-- `1 + s[5]` (R141). -/
def formOf (s : Byte) : BitVec 2 := 1 + (s.extractLsb' 5 1).setWidth 2
/-- `s[6]` (R142). -/
def realtimeOf (s : Byte) : Bool := s.getLsbD 6
/-- `s[7]` (R143). -/
def eofOf (s : Byte) : Bool := s.getLsbD 7

/-- `is_filler` (R165): mode 0, or mode 2 with form 2 and the whole submode byte equal to 32. The submode byte takes no
part for modes 0 and 1, whose blocks have none. -/
def fillerOf (mode : Byte) (submode : Option Byte) : Bool :=
  mode == 0 ||
    match submode with
    | some s => mode == 2 && formOf s == 2 && s == 32
    | none => false

/-- The code of `STATUS` on its port (R25, decision D4). -/
def statusCode : Status → BitVec 3
  | .none => 0
  | .ok => 1
  | .badLength => 2
  | .badSync => 3
  | .unknownMode => 4

/-- The output port `err`: 1 exactly when `STATUS` is 2, 3 or 4 (R25). -/
def isError : Status → Bool
  | .none => false
  | .ok => false
  | .badLength => true
  | .badSync => true
  | .unknownMode => true

/-- The status an error leaves (R201 to R203, R206). -/
def errorStatus : BlockError → Status
  | .badLength => .badLength
  | .badSync => .badSync
  | .unknownMode => .unknownMode

/-- `HDR_PRESENT` (R23). -/
def hdrPresent (s : State) : Bool := s.status == .ok

/-- `XA_PRESENT` (R23). -/
def xaPresent (s : State) : Bool := hdrPresent s && s.desc.mode == some 2

/-- `CSUM_PRESENT` (R23). -/
def csumPresent (s : State) : Bool := hdrPresent s && (s.desc.mode == some 1 || s.desc.mode == some 2)

/-- `ECC_PRESENT` (R23). -/
def eccPresent (s : State) : Bool :=
  hdrPresent s && (s.desc.mode == some 1 || (s.desc.mode == some 2 && s.desc.form == some 1))

end Sys2Proof.Machine
end

