-- ==== Sys2Proof/Machine/Ports.lean ====
section
/-! DEFINITION. The output ports (spec/44_stream_operations.md R180): what each drives, how wide it is, and what a host
that uses its value gets (spec/10_state.md R23, R24; spec/70_reset_and_hazards.md R236). -/

namespace Sys2Proof.Machine

open Sys2Proof

/-- The width of a port in bits (R180, R22, R8). -/
def portWidth : OutPort → Nat
  | .status => 3
  | .err => 1
  | .stickyErr => 1
  | .done => 1
  | .hdrPresent => 1
  | .xaPresent => 1
  | .csumPresent => 1
  | .eccPresent => 1
  | .minute => 8
  | .second => 8
  | .sector => 8
  | .mode => 2
  | .isFiller => 1
  | .dataOff => 12
  | .dataLen => 12
  | .csumOff => 12
  | .csumLen => 12
  | .eccOff => 12
  | .eccLen => 12
  | .file => 8
  | .channel => 5
  | .submode => 8
  | .codinginfo => 8
  | .eor => 1
  | .typeVideo => 1
  | .typeAudio => 1
  | .typeData => 1
  | .trigger => 1
  | .form => 2
  | .realtime => 1
  | .eof => 1

/-- The value of a one-bit port. -/
def bitNat (b : Bool) : Nat := b.toNat

/-- What a register gives while its group is present, nothing while it is absent (R23, R24). -/
def whenPresent (present : Bool) (v : Option Nat) : Option Nat := if present then v else none

/-- The value a port carries that means something: always for the status ports, and for a descriptor register while its
group is present (R23, R236). -/
def portValue (s : State) : OutPort → Option Nat
  | .status => some (statusCode s.status).toNat
  | .err => some (bitNat (isError s.status))
  | .stickyErr => some (bitNat s.stickyErr)
  | .done => some (bitNat s.done)
  | .hdrPresent => some (bitNat (hdrPresent s))
  | .xaPresent => some (bitNat (xaPresent s))
  | .csumPresent => some (bitNat (csumPresent s))
  | .eccPresent => some (bitNat (eccPresent s))
  | .minute => whenPresent (hdrPresent s) (s.desc.minute.map BitVec.toNat)
  | .second => whenPresent (hdrPresent s) (s.desc.second.map BitVec.toNat)
  | .sector => whenPresent (hdrPresent s) (s.desc.sector.map BitVec.toNat)
  | .mode => whenPresent (hdrPresent s) (s.desc.mode.map BitVec.toNat)
  | .isFiller => whenPresent (hdrPresent s) (s.desc.isFiller.map bitNat)
  | .dataOff => whenPresent (hdrPresent s) (s.desc.dataOff.map BitVec.toNat)
  | .dataLen => whenPresent (hdrPresent s) (s.desc.dataLen.map BitVec.toNat)
  | .csumOff => whenPresent (csumPresent s) (s.desc.csumOff.map BitVec.toNat)
  | .csumLen => whenPresent (csumPresent s) (s.desc.csumLen.map BitVec.toNat)
  | .eccOff => whenPresent (eccPresent s) (s.desc.eccOff.map BitVec.toNat)
  | .eccLen => whenPresent (eccPresent s) (s.desc.eccLen.map BitVec.toNat)
  | .file => whenPresent (xaPresent s) (s.desc.file.map BitVec.toNat)
  | .channel => whenPresent (xaPresent s) (s.desc.channel.map BitVec.toNat)
  | .submode => whenPresent (xaPresent s) (s.desc.submode.map BitVec.toNat)
  | .codinginfo => whenPresent (xaPresent s) (s.desc.codinginfo.map BitVec.toNat)
  | .eor => whenPresent (xaPresent s) (s.desc.eor.map bitNat)
  | .typeVideo => whenPresent (xaPresent s) (s.desc.typeVideo.map bitNat)
  | .typeAudio => whenPresent (xaPresent s) (s.desc.typeAudio.map bitNat)
  | .typeData => whenPresent (xaPresent s) (s.desc.typeData.map bitNat)
  | .trigger => whenPresent (xaPresent s) (s.desc.trigger.map bitNat)
  | .form => whenPresent (xaPresent s) (s.desc.form.map BitVec.toNat)
  | .realtime => whenPresent (xaPresent s) (s.desc.realtime.map bitNat)
  | .eof => whenPresent (xaPresent s) (s.desc.eof.map bitNat)

/-- The level a port drives: the value, and all bits 0 for an absent register (R24). The zeros mean nothing. -/
def portLevel (s : State) (p : OutPort) : Nat := (portValue s p).getD 0

/-- The host uses the value of a port (R220, R236): no side effect (R66); a fault of the host where the register is
absent. -/
def hostRead (p : OutPort) (s : State) : Host.Outcome State Fault Refusal :=
  match portValue s p with
  | some _ => .next s
  | none => .fault (.absentRegister p)

/-- The payload bytes that `DATA_OFF` and `DATA_LEN` select in the block the host holds (R164). -/
def dataSlice (B : Block) (s : State) : Option (List Byte) :=
  match hdrPresent s, s.desc.dataOff, s.desc.dataLen with
  | true, some off, some len => some (slice B off len)
  | _, _, _ => none

/-- The checksum bytes (R164). -/
def csumSlice (B : Block) (s : State) : Option (List Byte) :=
  match csumPresent s, s.desc.csumOff, s.desc.csumLen with
  | true, some off, some len => some (slice B off len)
  | _, _, _ => none

/-- The ecc bytes (R164). -/
def eccSlice (B : Block) (s : State) : Option (List Byte) :=
  match eccPresent s, s.desc.eccOff, s.desc.eccLen with
  | true, some off, some len => some (slice B off len)
  | _, _, _ => none

end Sys2Proof.Machine
end

