-- ==== Sys2Proof/Machine/Ops.lean ====
section
/-! DEFINITION. The shared operations over the registers: the descriptor writes, the error entry (R206), and the effect
of each field operation on the state. SHP writes no memory (R63), so there is no store. -/

namespace Sys2Proof.Machine

open Sys2Proof

/-- Write descriptor registers; nothing else changes. -/
def writeDesc (f : Descriptor → Descriptor) (s : State) : State := { s with desc := f s.desc }

/-- `x[STATUS] <- OK` (R155); `STICKY_ERR` keeps its value. -/
def statusOk (s : State) : State := { s with status := .ok }

/-- The error entry, `raise E` (R206): STATUS takes the code, STICKY_ERR is set, every descriptor register becomes
absent; nothing is saved and control goes nowhere. There is no return from it: SHP goes on with the next block and has
nothing to restore (R207). What the byte-serial interface adds (CNT, SYNC_OK, DONE) is `endBlock`, as after every
COMMIT. -/
def raiseError (e : BlockError) (s : State) : State :=
  { s with status := errorStatus e, stickyErr := true, desc := Descriptor.absent }

/-- `DEC.MIN` on the state (R112). -/
def putMinute (b : Byte) : State → State := writeDesc fun d => { d with minute := some (bcd2bin b) }
/-- `DEC.SEC` on the state (R113). -/
def putSecond (b : Byte) : State → State := writeDesc fun d => { d with second := some (bcd2bin b) }
/-- `DEC.SECT` on the state (R114). -/
def putSector (b : Byte) : State → State := writeDesc fun d => { d with sector := some (bcd2bin b) }

/-- `EXT.MODE` on the state (R121): the register, or the error `UnknownMode`. -/
def putMode (b : Byte) (s : State) : State :=
  match modeOf b with
  | some m => writeDesc (fun d => { d with mode := some m }) s
  | none => raiseError .unknownMode s

/-- `EXT.FILE` on the state (R122). -/
def putFile (b : Byte) : State → State := writeDesc fun d => { d with file := some b }
/-- `EXT.CHAN` on the state (R123). -/
def putChannel (b : Byte) : State → State := writeDesc fun d => { d with channel := some (channelOf b) }
/-- `EXT.SUBMODE` on the state (R124). -/
def putSubmode (b : Byte) : State → State := writeDesc fun d => { d with submode := some b }
/-- `EXT.CI` on the state (R125). -/
def putCodinginfo (b : Byte) : State → State := writeDesc fun d => { d with codinginfo := some b }

/-- `FLG.EOR` on the state (R136). -/
def putEor (b : Byte) : State → State := writeDesc fun d => { d with eor := some (eorOf b) }
/-- `FLG.VIDEO` on the state (R137). -/
def putTypeVideo (b : Byte) : State → State := writeDesc fun d => { d with typeVideo := some (videoOf b) }
/-- `FLG.AUDIO` on the state (R138). -/
def putTypeAudio (b : Byte) : State → State := writeDesc fun d => { d with typeAudio := some (audioOf b) }
/-- `FLG.DATA` on the state (R139). -/
def putTypeData (b : Byte) : State → State := writeDesc fun d => { d with typeData := some (dataOf b) }
/-- `FLG.TRIGGER` on the state (R140). -/
def putTrigger (b : Byte) : State → State := writeDesc fun d => { d with trigger := some (triggerOf b) }
/-- `FLG.FORM` on the state (R141). -/
def putForm (b : Byte) : State → State := writeDesc fun d => { d with form := some (formOf b) }
/-- `FLG.REALTIME` on the state (R142). -/
def putRealtime (b : Byte) : State → State := writeDesc fun d => { d with realtime := some (realtimeOf b) }
/-- `FLG.EOF` on the state (R143). -/
def putEof (b : Byte) : State → State := writeDesc fun d => { d with eof := some (eofOf b) }

/-- `IS_FILLER` on the state (R165). -/
def putIsFiller (mode : Byte) (submode : Option Byte) : State → State :=
  writeDesc fun d => { d with isFiller := some (fillerOf mode submode) }

/-- `DATA_OFF`, `DATA_LEN` (R157 to R160). -/
def putData (r : Range) : State → State := writeDesc fun d => { d with dataOff := some r.1, dataLen := some r.2 }
/-- `CSUM_OFF`, `CSUM_LEN` (R158 to R160). -/
def putCsum (r : Range) : State → State := writeDesc fun d => { d with csumOff := some r.1, csumLen := some r.2 }
/-- `ECC_OFF`, `ECC_LEN` (R158, R159). -/
def putEcc (r : Range) : State → State := writeDesc fun d => { d with eccOff := some r.1, eccLen := some r.2 }

/-- `CSUM group <- absent` (R157). -/
def csumAbsent : State → State := writeDesc fun d => { d with csumOff := none, csumLen := none }
/-- `ECC group <- absent` (R157, R160). -/
def eccAbsent : State → State := writeDesc fun d => { d with eccOff := none, eccLen := none }
/-- `XA group <- absent` (R157, R158). -/
def xaAbsent : State → State :=
  writeDesc fun d =>
    { d with file := none, channel := none, submode := none, codinginfo := none, eor := none, typeVideo := none,
             typeAudio := none, typeData := none, trigger := none, form := none, realtime := none, eof := none }

/-- What every class does first once no error is left (R155, R156): STATUS, the timecode, the mode. -/
def beginClass (mm ss ff mode : Byte) (s : State) : State :=
  putMode mode (putSector ff (putSecond ss (putMinute mm (statusOk s))))

/-- The eight flags of a mode 2 block (R135). -/
def putFlags (submode : Byte) (s : State) : State :=
  putEof submode <| putRealtime submode <| putForm submode <| putTrigger submode <| putTypeData submode <|
    putTypeAudio submode <| putTypeVideo submode <| putEor submode s

/-- The subheader and the flags of a mode 2 block (R159, R160). -/
def putSubheader (file chan submode ci : Byte) (s : State) : State :=
  putFlags submode <| putCodinginfo ci <| putSubmode submode <| putChannel chan <| putFile file s

end Sys2Proof.Machine
end

