-- ==== Sys2Proof/Machine/Bcd.lean ====
section
/-! DEFINITION. The BCD-to-binary decoder's three operations (spec/40_bcd_decoder.md R112 to R116). -/

namespace Sys2Proof.Machine

open Sys2Proof

/-- `DEC.MIN` (R112). -/
def execDecMin (b : Byte) (s : State) : Host.Outcome State Fault Refusal := .next (putMinute b s)

/-- `DEC.SEC` (R113). -/
def execDecSec (b : Byte) (s : State) : Host.Outcome State Fault Refusal := .next (putSecond b s)

/-- `DEC.SECT` (R114). -/
def execDecSect (b : Byte) (s : State) : Host.Outcome State Fault Refusal := .next (putSector b s)

end Sys2Proof.Machine
end

