-- ==== Sys2Proof/Machine/Classes.lean ====
section
/-! DEFINITION. The four sector classes, each the whole of PARSE from "no error from here on" (R155) to the end of the
class's own rule, and the filler predicate (spec/43_sector_classes.md R155 to R161, R165). -/

namespace Sys2Proof.Machine

open Sys2Proof

/-- `SEC.M0` (R157). -/
def execSecM0 (mm ss ff : Byte) (s : State) : Host.Outcome State Fault Refusal :=
  .next <| putIsFiller 0 none <| xaAbsent <| eccAbsent <| csumAbsent <| putData dataM0 <| beginClass mm ss ff 0 s

/-- `SEC.M1` (R158). -/
def execSecM1 (mm ss ff : Byte) (s : State) : Host.Outcome State Fault Refusal :=
  .next <| putIsFiller 1 none <| xaAbsent <| putEcc eccM1 <| putCsum csumM1 <| putData dataM1 <| beginClass mm ss ff 1 s

/-- `SEC.M2F1` (R159). -/
def execSecM2F1 (mm ss ff file chan submode ci : Byte) (s : State) : Host.Outcome State Fault Refusal :=
  .next <| putIsFiller 2 (some submode) <| putEcc eccM2F1 <| putCsum csumM2F1 <| putData dataM2F1 <|
    putSubheader file chan submode ci <| beginClass mm ss ff 2 s

/-- `SEC.M2F2` (R160). -/
def execSecM2F2 (mm ss ff file chan submode ci : Byte) (s : State) : Host.Outcome State Fault Refusal :=
  .next <| putIsFiller 2 (some submode) <| eccAbsent <| putCsum csumM2F2 <| putData dataM2F2 <|
    putSubheader file chan submode ci <| beginClass mm ss ff 2 s

/-- `IS_FILLER` (R165). -/
def execIsFiller (mode : Byte) (submode : Option Byte) (s : State) : Host.Outcome State Fault Refusal :=
  .next (putIsFiller mode submode s)

end Sys2Proof.Machine
end

