-- ==== Sys2Proof/Machine/Extract.lean ====
section
/-! DEFINITION. The bit-field extractor's five operations (spec/41_bitfield_extractor.md R120 to R126). -/

namespace Sys2Proof.Machine

open Sys2Proof

/-- `EXT.MODE` (R121): the register for 0, 1 and 2, the error entry of `UnknownMode` for 3 to 255. -/
def execExtMode (b : Byte) (s : State) : Host.Outcome State Fault Refusal := .next (putMode b s)

/-- `EXT.FILE` (R122). -/
def execExtFile (b : Byte) (s : State) : Host.Outcome State Fault Refusal := .next (putFile b s)

/-- `EXT.CHAN` (R123). -/
def execExtChan (b : Byte) (s : State) : Host.Outcome State Fault Refusal := .next (putChannel b s)

/-- `EXT.SUBMODE` (R124). -/
def execExtSubmode (b : Byte) (s : State) : Host.Outcome State Fault Refusal := .next (putSubmode b s)

/-- `EXT.CI` (R125). -/
def execExtCi (b : Byte) (s : State) : Host.Outcome State Fault Refusal := .next (putCodinginfo b s)

end Sys2Proof.Machine
end

