-- ==== Sys2Proof/Machine/Submode.lean ====
section
/-! DEFINITION. The submode-flag decoder's eight operations (spec/42_submode_flag_decoder.md R135 to R144): each reads
its own bit of the submode byte and writes its own register. -/

namespace Sys2Proof.Machine

open Sys2Proof

/-- `FLG.EOR` (R136). -/
def execFlgEor (submode : Byte) (s : State) : Host.Outcome State Fault Refusal := .next (putEor submode s)

/-- `FLG.VIDEO` (R137). -/
def execFlgVideo (submode : Byte) (s : State) : Host.Outcome State Fault Refusal := .next (putTypeVideo submode s)

/-- `FLG.AUDIO` (R138). -/
def execFlgAudio (submode : Byte) (s : State) : Host.Outcome State Fault Refusal := .next (putTypeAudio submode s)

/-- `FLG.DATA` (R139). -/
def execFlgData (submode : Byte) (s : State) : Host.Outcome State Fault Refusal := .next (putTypeData submode s)

/-- `FLG.TRIGGER` (R140). -/
def execFlgTrigger (submode : Byte) (s : State) : Host.Outcome State Fault Refusal := .next (putTrigger submode s)

/-- `FLG.FORM` (R141). -/
def execFlgForm (submode : Byte) (s : State) : Host.Outcome State Fault Refusal := .next (putForm submode s)

/-- `FLG.REALTIME` (R142). -/
def execFlgRealtime (submode : Byte) (s : State) : Host.Outcome State Fault Refusal := .next (putRealtime submode s)

/-- `FLG.EOF` (R143). -/
def execFlgEof (submode : Byte) (s : State) : Host.Outcome State Fault Refusal := .next (putEof submode s)

end Sys2Proof.Machine
end

