-- ==== Sys2Proof/Machine/Dispatch.lean ====
section
/-! DEFINITION. One arm per row of the opcode table. -/

namespace Sys2Proof.Machine

open Sys2Proof

def exec (i : Instr) (s : State) : Host.Outcome State Fault Refusal :=
  match i with
  | .secM0 mm ss ff => Sys2Proof.Machine.execSecM0 mm ss ff s
  | .secM1 mm ss ff => Sys2Proof.Machine.execSecM1 mm ss ff s
  | .secM2F1 mm ss ff file chan submode ci => Sys2Proof.Machine.execSecM2F1 mm ss ff file chan submode ci s
  | .secM2F2 mm ss ff file chan submode ci => Sys2Proof.Machine.execSecM2F2 mm ss ff file chan submode ci s
  | .decMin b => Sys2Proof.Machine.execDecMin b s
  | .decSec b => Sys2Proof.Machine.execDecSec b s
  | .decSect b => Sys2Proof.Machine.execDecSect b s
  | .extMode b => Sys2Proof.Machine.execExtMode b s
  | .extFile b => Sys2Proof.Machine.execExtFile b s
  | .extChan b => Sys2Proof.Machine.execExtChan b s
  | .extSubmode b => Sys2Proof.Machine.execExtSubmode b s
  | .extCi b => Sys2Proof.Machine.execExtCi b s
  | .flgEor submode => Sys2Proof.Machine.execFlgEor submode s
  | .flgVideo submode => Sys2Proof.Machine.execFlgVideo submode s
  | .flgAudio submode => Sys2Proof.Machine.execFlgAudio submode s
  | .flgData submode => Sys2Proof.Machine.execFlgData submode s
  | .flgTrigger submode => Sys2Proof.Machine.execFlgTrigger submode s
  | .flgForm submode => Sys2Proof.Machine.execFlgForm submode s
  | .flgRealtime submode => Sys2Proof.Machine.execFlgRealtime submode s
  | .flgEof submode => Sys2Proof.Machine.execFlgEof submode s
  | .isFiller mode submode => Sys2Proof.Machine.execIsFiller mode submode s

end Sys2Proof.Machine
end

