-- ==== Sys2Proof/Machine/Parse.lean ====
section
/-! DEFINITION. The transaction, `PARSE(B)` (spec/43_sector_classes.md R155). -/

namespace Sys2Proof.Machine

open Sys2Proof

/-- What follows the decoder, at either level: the error entry or the class (R155, R186). -/
def runDecoded (r : Except BlockError Instr) (s : State) : Host.Outcome State Fault Refusal :=
  match r with
  | .error e => .next (raiseError e s)
  | .ok i => exec i s

/-- `PARSE(B)` (R155): one atomic step that rewrites STATUS, STICKY_ERR and the descriptor. It leaves the registers of
the byte-serial interface as they are (log entry 4). -/
def parse (B : Block) (s : State) : Host.Outcome State Fault Refusal := runDecoded (decode B) s

end Sys2Proof.Machine
end

