-- ==== Sys2Proof/Machine/Stream.lean ====
section
/-! DEFINITION. The byte-serial interface: RESET, IDLE, ACCEPT, COMMIT and the choice among them at a clock edge
(spec/44_stream_operations.md R181 to R187). -/

namespace Sys2Proof.Machine

open Sys2Proof

/-- `RESET` (R182). The host's inputs to come are not SHP's to clear. -/
def resetOp (s : State) : State := { State.reset with inputs := s.inputs }

/-- `IDLE` (R183). -/
def idleOp (s : State) : State := { s with done := false }

/-- Part 1 of ACCEPT (R184): `if i < 12 and d != SYNC[i] then SYNC_OK <- 0`. -/
def watchSync (i : Nat) (d : Byte) (s : State) : State :=
  if i < syncLen ∧ sync[i]? ≠ some d then { s with syncOk := false } else s

/-- The capture register of offset `i`, if there is one, takes `d` (R30, R184). -/
def captureByte (i : Nat) (d : Byte) (h : Header) : Header :=
  if i = offMin then { h with hMin := d }
  else if i = offSec then { h with hSec := d }
  else if i = offSect then { h with hSect := d }
  else if i = offMode then { h with hMode := d }
  else if i = offFile then { h with sFile := d }
  else if i = offChan then { h with sChan := d }
  else if i = offSubmode then { h with sSubmode := d }
  else if i = offCi then { h with sCi := d }
  else h

/-- Part 2 of ACCEPT (R184). -/
def capture (i : Nat) (d : Byte) (s : State) : State := { s with cap := captureByte i d s.cap }

/-- `min(i + 1, 2352)` in the 12 bits of CNT (R184, R187). -/
def nextCnt (i : Nat) : BitVec 12 := BitVec.ofNat 12 (min (i + 1) blockLen)

/-- Part 3 of ACCEPT for a byte that is not the last (R184). -/
def countByte (i : Nat) (s : State) : State := { s with cnt := nextCnt i, done := false }

/-- What ACCEPT does after COMMIT (R184, R206). -/
def endBlock (s : State) : State := { s with cnt := 0, syncOk := true, done := true }

/-- What the capture registers say of a block that ends at offset `i` (R186): the same checks in the same order as
`decode`, on what ACCEPT kept of the block. -/
def decodeCaptured (i : Nat) (syncOk : Bool) (h : Header) : Except BlockError Instr :=
  if i + 1 ≠ blockLen then .error .badLength
  else if syncOk = false then .error .badSync
  else selectClass h

/-- `COMMIT(i)` (R186). -/
def commit (i : Nat) (s : State) : Host.Outcome State Fault Refusal :=
  runDecoded (decodeCaptured i s.syncOk s.cap) s

/-- `ACCEPT(d, l)` (R184). COMMIT sees the updates of parts 1 and 2. -/
def accept (d : Byte) (l : Bool) (s : State) : Host.Outcome State Fault Refusal :=
  let i := s.cnt.toNat
  let seen := capture i d (watchSync i d s)
  if l then
    match commit i seen with
    | .next t => .next (endBlock t)
    | .fault f => .fault f
    | .refused r => .refused r
  else .next (countByte i seen)

/-- One rising edge of `clk` (R181): `rst` wins, then `in_valid`, else IDLE. -/
def clockEdge (rst inValid : Bool) (inData : Byte) (inLast : Bool) (s : State) : Host.Outcome State Fault Refusal :=
  if rst then .next (resetOp s)
  else if inValid then accept inData inLast s
  else .next (idleOp s)

end Sys2Proof.Machine
end

