-- ==== Sys2Proof/Machine/Step.lean ====
section
/-! DEFINITION. One step: the next input of the host is served. -/

namespace Sys2Proof.Machine

open Sys2Proof

/-- What one input of the host does. -/
def serve (x : Input) (s : State) : Host.Outcome State Fault Refusal :=
  match x with
  | .edge rst inValid inData inLast => clockEdge rst inValid inData inLast s
  | .parse B => parse B s
  | .read p => hostRead p s

/-- One step. A host that presents nothing leaves SHP idle (R183, R216; log entry 2). -/
def step (s : State) : Host.Outcome State Fault Refusal :=
  match s.inputs with
  | [] => .next (idleOp s)
  | x :: rest => serve x { s with inputs := rest }

/-- The block of a table word becomes the next input, a `PARSE` of it. -/
def State.withFetchWord (s : State) (nbits w : Nat) : State :=
  { s with inputs := .parse (tableBlock nbits w) :: s.inputs }

end Sys2Proof.Machine
end

