-- ==== Sys2Proof/Safety.lean ====
section
/-! DEFINITION. The words claims are made in: the invariant of the machine (spec/10_state.md R22, R23, R28, R29;
spec/43_sector_classes.md R161, R165, R166), what the host can see, and what it is to present a block
byte by byte (spec/44_stream_operations.md R190). -/

namespace Sys2Proof.Machine

open Sys2Proof

/-- Every register of the HDR group holds a value (R22, R23). -/
def Descriptor.hdrHeld (d : Descriptor) : Bool :=
  d.minute.isSome && d.second.isSome && d.sector.isSome && d.mode.isSome && d.isFiller.isSome &&
    d.dataOff.isSome && d.dataLen.isSome

/-- No register of the HDR group holds a value. -/
def Descriptor.hdrEmpty (d : Descriptor) : Bool :=
  d.minute.isNone && d.second.isNone && d.sector.isNone && d.mode.isNone && d.isFiller.isNone &&
    d.dataOff.isNone && d.dataLen.isNone

/-- Every register of the XA group holds a value. -/
def Descriptor.xaHeld (d : Descriptor) : Bool :=
  d.file.isSome && d.channel.isSome && d.submode.isSome && d.codinginfo.isSome && d.eor.isSome &&
    d.typeVideo.isSome && d.typeAudio.isSome && d.typeData.isSome && d.trigger.isSome && d.form.isSome &&
    d.realtime.isSome && d.eof.isSome

/-- No register of the XA group holds a value. -/
def Descriptor.xaEmpty (d : Descriptor) : Bool :=
  d.file.isNone && d.channel.isNone && d.submode.isNone && d.codinginfo.isNone && d.eor.isNone &&
    d.typeVideo.isNone && d.typeAudio.isNone && d.typeData.isNone && d.trigger.isNone && d.form.isNone &&
    d.realtime.isNone && d.eof.isNone

/-- Both registers of the CSUM group hold a value. -/
def Descriptor.csumHeld (d : Descriptor) : Bool := d.csumOff.isSome && d.csumLen.isSome
/-- Neither does. -/
def Descriptor.csumEmpty (d : Descriptor) : Bool := d.csumOff.isNone && d.csumLen.isNone
/-- Both registers of the ECC group hold a value. -/
def Descriptor.eccHeld (d : Descriptor) : Bool := d.eccOff.isSome && d.eccLen.isSome
/-- Neither does. -/
def Descriptor.eccEmpty (d : Descriptor) : Bool := d.eccOff.isNone && d.eccLen.isNone

/-- The range registers as the table of R7 gives them for a mode and a form. -/
def rangesOf (mode form : Nat) : List (Option Nat) :=
  if mode = 1 then [some 16, some 2048, some 2064, some 4, some 2076, some 276]
  else if mode = 2 then
    if form = 2 then [some 24, some 2324, some 2348, some 4, none, none]
    else [some 24, some 2048, some 2072, some 4, some 2076, some 276]
  else [some 0, some 0, none, none, none, none]

/-- The range registers of a descriptor as numbers, in the order of R22. -/
def Descriptor.ranges (d : Descriptor) : List (Option Nat) :=
  [d.dataOff, d.dataLen, d.csumOff, d.csumLen, d.eccOff, d.eccLen].map (·.map BitVec.toNat)

/-- A register that is absent, or holds a value at most `n`. -/
def atMost {w : Nat} (n : Nat) (r : Option (BitVec w)) : Prop := ∀ v, r = some v → v.toNat ≤ n

/-- The right side of the reconstruction law R144, when all eight registers hold a value. -/
def Descriptor.submodeFromFlags (d : Descriptor) : Option Nat := do
  let eor ← d.eor
  let video ← d.typeVideo
  let audio ← d.typeAudio
  let data ← d.typeData
  let trigger ← d.trigger
  let form ← d.form
  let realtime ← d.realtime
  let eof ← d.eof
  return eor.toNat + 2 * video.toNat + 4 * audio.toNat + 8 * data.toNat + 16 * trigger.toNat +
    32 * (form.toNat - 1) + 64 * realtime.toNat + 128 * eof.toNat

/-- The invariant of the machine: what the rules say of every state between two steps. -/
structure State.Inv (s : State) : Prop where
  /-- CNT never exceeds 2352 (R28, R187 e). -/
  cnt_le : s.cnt.toNat ≤ 2352
  /-- At the start of a block SYNC_OK is 1 (R190). -/
  sync_at_start : s.cnt = 0 → s.syncOk = true
  /-- DONE is 1 only right after a COMMIT, when CNT is 0 and STATUS holds an outcome (R27, R184). -/
  done_means_result : s.done = true → s.cnt = 0 ∧ s.status ≠ .none
  /-- An error in STATUS has set STICKY_ERR (R26). -/
  error_is_sticky : isError s.status = true → s.stickyErr = true
  /-- Each group is wholly present or wholly absent, as R23 computes it. -/
  hdr_group : if hdrPresent s then s.desc.hdrHeld else s.desc.hdrEmpty
  xa_group : if xaPresent s then s.desc.xaHeld else s.desc.xaEmpty
  csum_group : if csumPresent s then s.desc.csumHeld else s.desc.csumEmpty
  ecc_group : if eccPresent s then s.desc.eccHeld else s.desc.eccEmpty
  /-- The values of R22. -/
  minute_le : atMost 165 s.desc.minute
  second_le : atMost 165 s.desc.second
  sector_le : atMost 165 s.desc.sector
  mode_le : atMost 2 s.desc.mode
  form_legal : ∀ f, s.desc.form = some f → f = 1 ∨ f = 2
  /-- The ranges depend on the class alone (R161, R7). -/
  ranges_by_class : ∀ m, s.desc.mode = some m →
    s.desc.ranges = rangesOf m.toNat ((s.desc.form.map BitVec.toNat).getD 0)
  /-- The flags rebuild the submode byte (R144). -/
  flags_rebuild : ∀ b, s.desc.submode = some b → s.desc.submodeFromFlags = some b.toNat
  /-- The filler predicate of R165 in terms of the registers. -/
  filler_iff : ∀ f, s.desc.isFiller = some f →
    (f = true ↔ s.desc.mode = some 0 ∨ (s.desc.mode = some 2 ∧ s.desc.form = some 2 ∧ s.desc.submode = some 32))

/-- The result of a block: STATUS and the descriptor (R33). -/
def State.result (s : State) : Status × Descriptor := (s.status, s.desc)

/-- What the rules let PARSE write (R155): the result and STICKY_ERR. -/
def State.outcome (s : State) : Status × Bool × Descriptor := (s.status, s.stickyErr, s.desc)

/-- A clock edge with `rst` low. -/
def Input.isEdgeNoReset : Input → Bool
  | .edge rst _ _ _ => !rst
  | .parse _ => false
  | .read _ => false

/-- A clock edge that accepts a byte. -/
def Input.accepts : Input → Bool
  | .edge rst inValid _ _ => !rst && inValid
  | .parse _ => false
  | .read _ => false

/-- A clock edge of any kind. -/
def Input.isEdge : Input → Bool
  | .edge _ _ _ _ => true
  | .parse _ => false
  | .read _ => false

/-- The bytes a sequence of inputs makes SHP accept, each with its `in_last`. -/
def acceptedBytes : List Input → List (Byte × Bool)
  | [] => []
  | .edge rst inValid d l :: xs => if !rst && inValid then (d, l) :: acceptedBytes xs else acceptedBytes xs
  | .parse _ :: xs => acceptedBytes xs
  | .read _ :: xs => acceptedBytes xs

/-- The bytes of a block with `in_last` on the last alone (R190). -/
def markLast : Block → List (Byte × Bool)
  | [] => []
  | [d] => [(d, true)]
  | d :: e :: B => (d, false) :: markLast (e :: B)

/-- The inputs `xs` present the block `B` as R190 says: clock edges with no RESET, the bytes of `B` in order with
`in_last` on the last alone, any number of IDLE steps before and between them, none after the last byte. -/
structure Presents (xs : List Input) (B : Block) : Prop where
  no_reset : ∀ x ∈ xs, x.isEdgeNoReset = true
  bytes : acceptedBytes xs = markLast B
  ends_accepting : ∀ x, xs.getLast? = some x → x.accepts = true

/-- Part 2 of ACCEPT (R184, R30): the byte `d` at offset `i` goes to the capture register of that offset, if there is one,
and the other capture registers stay. -/
structure Captures (i : Nat) (d : Byte) (before after : Header) : Prop where
  hMin : after.hMin = if i = 12 then d else before.hMin
  hSec : after.hSec = if i = 13 then d else before.hSec
  hSect : after.hSect = if i = 14 then d else before.hSect
  hMode : after.hMode = if i = 15 then d else before.hMode
  sFile : after.sFile = if i = 16 then d else before.sFile
  sChan : after.sChan = if i = 17 then d else before.sChan
  sSubmode : after.sSubmode = if i = 18 then d else before.sSubmode
  sCi : after.sCi = if i = 19 then d else before.sCi

/-- A port shows the number `n`: that is its value and the level on its wires (R180). -/
def Shows (s : State) (p : OutPort) (n : Nat) : Prop := portValue s p = some n ∧ portLevel s p = n

/-- A port of one bit shows whether `c` holds. -/
def ShowsBit (s : State) (p : OutPort) (c : Prop) : Prop := (c → Shows s p 1) ∧ (¬ c → Shows s p 0)

/-- A port carries the register `r`, which holds a value (R22, R180). -/
def Carries {w : Nat} (s : State) (p : OutPort) (r : Option (BitVec w)) : Prop := ∃ v, r = some v ∧ Shows s p v.toNat

/-- A port carries the register `r` of one bit, which holds a value. -/
def CarriesBit (s : State) (p : OutPort) (r : Option Bool) : Prop := ∃ b, r = some b ∧ ShowsBit s p (b = true)

/-- A port has no value, and its wires are all 0 (R24). -/
def ShowsNothing (s : State) (p : OutPort) : Prop := portValue s p = none ∧ portLevel s p = 0

/-- The number two packed digits spell, as R110 writes it: ten times the high nibble plus the low nibble. -/
def bcdValue (b : Byte) : Nat := 10 * (b.toNat / 16) + b.toNat % 16

/-- A block of 2352 bytes whose first twelve are the sync pattern: a `00`, ten `FF`, a `00` (R4, R5). -/
structure Framed (B : Block) : Prop where
  length : B.length = 2352
  sync : ∀ i, i < 12 → B[i]? = some (if i = 0 ∨ i = 11 then 0x00 else 0xFF)

/-- A list of instructions one after the other. -/
def execAll : List Instr → State → Host.Outcome State Fault Refusal
  | [], s => .next s
  | i :: is, s =>
      match exec i s with
      | .next t => execAll is t
      | .fault f => .fault f
      | .refused r => .refused r

/-- A list of blocks, one PARSE each, in order (R70). -/
def parseAll : List Block → State → Host.Outcome State Fault Refusal
  | [], s => .next s
  | B :: Bs, s =>
      match parse B s with
      | .next t => parseAll Bs t
      | .fault f => .fault f
      | .refused r => .refused r

/-- The header of a block under a row's mask, byte by byte: `(H & mask) == match` of R82. -/
def maskedHeaderIs (B : Block) (mask matchBytes : List Byte) : Prop :=
  ∀ i, i < 24 → ∃ b m v, B[i]? = some b ∧ mask[i]? = some m ∧ matchBytes[i]? = some v ∧ b &&& m = v

end Sys2Proof.Machine
end

