-- ==== Sys2Proof/Certificates/Slice0/Obligations.lean ====
section
/-! DEFINITION. The statements for the provers. -/

open Sys2Proof Sys2Proof.Machine

/-! ### Encoding (spec/30_encoding.md) -/

/-- Every well-formed class decodes from its own block to itself, with every operand at every value; a row has a block
exactly when it is a class (R81, R83, R91). -/
def Obligations.DecodeUndoesEncode : Prop :=
  ∀ i : Instr, ((encode i).isSome = i.isClass) ∧
    (i.wellFormed = true → ∀ B, encode i = some B → decode B = .ok i)

/-- What the decoder accepts is a well-formed class whose own block agrees with the block read in every byte that takes
part in decoding: the sync, the timecode, the mode, and for mode 2 the subheader (R61, R81). -/
def Obligations.DecodedBlockAgreesWithItsEncoding : Prop :=
  ∀ (B : Block) (i : Instr), decode B = .ok i →
    i.isClass = true ∧ i.wellFormed = true ∧
    ∃ E, encode i = some E ∧ E.take 16 = B.take 16 ∧ (B[15]? = some 2 → E.take 20 = B.take 20)

/-- R83: a framed block belongs to exactly one of four classes, or to none, by its whole mode byte and bit 5 of its
byte 18. -/
def Obligations.ModeAndFormSelectTheClass : Prop :=
  ∀ (B : Block) (mm ss ff m f c sm ci : Byte), Framed B →
    B[12]? = some mm → B[13]? = some ss → B[14]? = some ff → B[15]? = some m →
    B[16]? = some f → B[17]? = some c → B[18]? = some sm → B[19]? = some ci →
    (m.toNat = 0 → decode B = .ok (.secM0 mm ss ff)) ∧
    (m.toNat = 1 → decode B = .ok (.secM1 mm ss ff)) ∧
    (m.toNat = 2 → sm &&& 0x20 = 0 → decode B = .ok (.secM2F1 mm ss ff f c sm ci)) ∧
    (m.toNat = 2 → sm &&& 0x20 ≠ 0 → decode B = .ok (.secM2F2 mm ss ff f c sm ci)) ∧
    (3 ≤ m.toNat → decode B = .error .unknownMode)

/-- R82 and the class rows of the opcode table: a block of length 2352 is of a class exactly when its header under the
row's mask is the row's match. The bytes are the table's own, byte 0 first. -/
def Obligations.MaskedHeaderSelectsTheRow : Prop :=
  ∀ B : Block, B.length = 2352 →
    ((∃ mm ss ff, decode B = .ok (.secM0 mm ss ff)) ↔
      maskedHeaderIs B
        [0xFF, 0xFF, 0xFF, 0xFF, 0xFF, 0xFF, 0xFF, 0xFF, 0xFF, 0xFF, 0xFF, 0xFF, 0, 0, 0, 0xFF, 0, 0, 0, 0, 0, 0, 0, 0]
        [0x00, 0xFF, 0xFF, 0xFF, 0xFF, 0xFF, 0xFF, 0xFF, 0xFF, 0xFF, 0xFF, 0x00, 0, 0, 0, 0x00, 0, 0, 0, 0, 0, 0, 0, 0]) ∧
    ((∃ mm ss ff, decode B = .ok (.secM1 mm ss ff)) ↔
      maskedHeaderIs B
        [0xFF, 0xFF, 0xFF, 0xFF, 0xFF, 0xFF, 0xFF, 0xFF, 0xFF, 0xFF, 0xFF, 0xFF, 0, 0, 0, 0xFF, 0, 0, 0, 0, 0, 0, 0, 0]
        [0x00, 0xFF, 0xFF, 0xFF, 0xFF, 0xFF, 0xFF, 0xFF, 0xFF, 0xFF, 0xFF, 0x00, 0, 0, 0, 0x01, 0, 0, 0, 0, 0, 0, 0, 0]) ∧
    ((∃ mm ss ff f c sm ci, decode B = .ok (.secM2F1 mm ss ff f c sm ci)) ↔
      maskedHeaderIs B
        [0xFF, 0xFF, 0xFF, 0xFF, 0xFF, 0xFF, 0xFF, 0xFF, 0xFF, 0xFF, 0xFF, 0xFF, 0, 0, 0, 0xFF, 0, 0, 0x20, 0, 0, 0, 0, 0]
        [0x00, 0xFF, 0xFF, 0xFF, 0xFF, 0xFF, 0xFF, 0xFF, 0xFF, 0xFF, 0xFF, 0x00, 0, 0, 0, 0x02, 0, 0, 0x00, 0, 0, 0, 0, 0]) ∧
    ((∃ mm ss ff f c sm ci, decode B = .ok (.secM2F2 mm ss ff f c sm ci)) ↔
      maskedHeaderIs B
        [0xFF, 0xFF, 0xFF, 0xFF, 0xFF, 0xFF, 0xFF, 0xFF, 0xFF, 0xFF, 0xFF, 0xFF, 0, 0, 0, 0xFF, 0, 0, 0x20, 0, 0, 0, 0, 0]
        [0x00, 0xFF, 0xFF, 0xFF, 0xFF, 0xFF, 0xFF, 0xFF, 0xFF, 0xFF, 0xFF, 0x00, 0, 0, 0, 0x02, 0, 0, 0x20, 0, 0, 0, 0, 0])

/-- R86 in the priority of R205: the illegal encodings and the error of each, that nothing else is refused, and that a
refused block leaves no descriptor. -/
def Obligations.DecodeReportsTheFirstDefect : Prop :=
  ∀ B : Block,
    (decode B = .error .badLength ↔ B.length ≠ 2352) ∧
    (decode B = .error .badSync ↔ B.length = 2352 ∧ ¬ Framed B) ∧
    (decode B = .error .unknownMode ↔ Framed B ∧ ∃ m, B[15]? = some m ∧ 3 ≤ m.toNat) ∧
    ((∃ i, decode B = .ok i) ↔ Framed B ∧ ∃ m, B[15]? = some m ∧ m.toNat ≤ 2) ∧
    (∀ (e : BlockError) (s : State), decode B = .error e → ∃ t, parse B s = .next t ∧ t.desc = Descriptor.absent)

/-- Blocks written out from the encoding (R83, R89): one of each class, the field operations they run, and a block of
each illegal encoding. The bytes after the header do not matter; here they are 0. -/
def Obligations.WrittenOutBlocksDecode : Prop :=
  let rest (n : Nat) : List Byte := List.replicate n 0
  let header : List Byte := [0x00, 0xFF, 0xFF, 0xFF, 0xFF, 0xFF, 0xFF, 0xFF, 0xFF, 0xFF, 0xFF, 0x00]
  decode (header ++ [0x12, 0x34, 0x56, 0x00] ++ rest 2336) = .ok (.secM0 0x12 0x34 0x56) ∧
  decode (header ++ [0x00, 0x02, 0x00, 0x01] ++ rest 2336) = .ok (.secM1 0x00 0x02 0x00) ∧
  decode (header ++ [0x00, 0x02, 0x16, 0x02, 0x01, 0x1F, 0x02, 0x00] ++ rest 2332) =
    .ok (.secM2F1 0x00 0x02 0x16 0x01 0x1F 0x02 0x00) ∧
  decode (header ++ [0x27, 0x00, 0x99, 0x02, 0xFF, 0xE3, 0xFF, 0x7F] ++ rest 2332) =
    .ok (.secM2F2 0x27 0x00 0x99 0xFF 0xE3 0xFF 0x7F) ∧
  decode (header ++ [0x00, 0x02, 0x00, 0x01] ++ rest 2335) = .error .badLength ∧
  decode (rest 2352) = .error .badSync ∧
  decode (header ++ [0x00, 0x02, 0x00, 0x12] ++ rest 2336) = .error .unknownMode

/-! ### The field operations (spec/40, 41, 42, 43) -/

/-- R110: ten times the high nibble plus the low nibble, for all 256 bytes, at most 165; for two decimal digits the
number they spell, at most 99. -/
def Obligations.BcdDecoderIsTensAndUnits : Prop :=
  ∀ b : Byte, (bcd2bin b).toNat = 10 * (b.extractLsb' 4 4).toNat + (b.extractLsb' 0 4).toNat ∧
    (bcd2bin b).toNat ≤ 165 ∧
    ((b.extractLsb' 4 4).toNat ≤ 9 → (b.extractLsb' 0 4).toNat ≤ 9 → (bcd2bin b).toNat ≤ 99)

/-- R115, an inference of the spec's own: two packed-decimal bytes of one value are one byte; on all bytes it is not so,
and exactly 166 values arise. -/
def Obligations.PackedDecimalDecodesInjectively : Prop :=
  (∀ b c : Byte, b.toNat / 16 ≤ 9 → b.toNat % 16 ≤ 9 → c.toNat / 16 ≤ 9 → c.toNat % 16 ≤ 9 →
    bcd2bin b = bcd2bin c → b = c) ∧
  bcd2bin 0x0A = bcd2bin 0x10 ∧ bcd2bin 0x9A = bcd2bin 0xA0 ∧
  ∀ n : Nat, n < 166 ↔ ∃ b : Byte, (bcd2bin b).toNat = n

/-- R112 to R114: DEC.MIN, DEC.SEC and DEC.SECT each write the BCD value of their byte to their own register and nothing
else; every accepted block runs them on its bytes 12, 13 and 14; and after a failed PARSE the three registers are absent.
That each can be executed alone, and completes in every state, is the model's choice (log entry 8): R112 runs them only
inside a PARSE that passed its checks. -/
def Obligations.TimecodeDecodersWriteTheirRegister : Prop :=
  (∀ (b : Byte) (s : State), ∃ v : BitVec 8, v.toNat = bcdValue b ∧
    exec (.decMin b) s = .next { s with desc := { s.desc with minute := some v } } ∧
    exec (.decSec b) s = .next { s with desc := { s.desc with second := some v } } ∧
    exec (.decSect b) s = .next { s with desc := { s.desc with sector := some v } }) ∧
  (∀ (B : Block) (i : Instr) (b : Byte), decode B = .ok i →
    (.decMin b ∈ fieldOps i ↔ B[12]? = some b) ∧
    (.decSec b ∈ fieldOps i ↔ B[13]? = some b) ∧
    (.decSect b ∈ fieldOps i ↔ B[14]? = some b)) ∧
  (∀ (B : Block) (e : BlockError) (s : State), decode B = .error e → ∃ t, parse B s = .next t ∧
    t.desc.minute = none ∧ t.desc.second = none ∧ t.desc.sector = none)

/-- R121: EXT.MODE writes a mode byte of 0, 1 or 2 to MODE and nothing else; any other byte is the error entry of
UnknownMode; the operand is the byte at offset 15 of a framed block, and a block that is not framed raises another
error. That EXT.MODE alone, in every state, writes MODE or takes the error entry is the model's choice (log entry 8). -/
def Obligations.ExtModeWritesOrRaises : Prop :=
  (∀ (b : Byte) (s : State), b.toNat ≤ 2 → ∃ m : BitVec 2, m.toNat = b.toNat ∧
    exec (.extMode b) s = .next { s with desc := { s.desc with mode := some m } }) ∧
  (∀ (b : Byte) (s : State), 3 ≤ b.toNat →
    exec (.extMode b) s = .next { s with status := .unknownMode, stickyErr := true, desc := Descriptor.absent }) ∧
  (∀ (B : Block) (i : Instr) (b : Byte), decode B = .ok i → (.extMode b ∈ fieldOps i ↔ B[15]? = some b)) ∧
  (∀ (B : Block) (b : Byte) (s : State), Framed B → B[15]? = some b → 3 ≤ b.toNat →
    parse B s = exec (.extMode b) s) ∧
  (∀ (B : Block) (s : State), ¬ Framed B → ∃ t, parse B s = .next t ∧ (t.status = .badLength ∨ t.status = .badSync))

/-- R122 to R125: EXT.FILE, EXT.SUBMODE and EXT.CI copy their byte whole, EXT.CHAN its low five bits, each to its own
register and nothing else. Exactly the blocks of mode 2 run them, on their bytes 16, 17, 18 and 19; for modes 0 and 1 the
registers are absent. That each can be executed alone, in every state, is the model's choice (log entry 8). -/
def Obligations.ExtractorCopiesItsField : Prop :=
  (∀ (b : Byte) (s : State), ∃ c : BitVec 5, c.toNat = b.toNat % 32 ∧
    exec (.extFile b) s = .next { s with desc := { s.desc with file := some b } } ∧
    exec (.extChan b) s = .next { s with desc := { s.desc with channel := some c } } ∧
    exec (.extSubmode b) s = .next { s with desc := { s.desc with submode := some b } } ∧
    exec (.extCi b) s = .next { s with desc := { s.desc with codinginfo := some b } }) ∧
  (∀ (B : Block) (i : Instr) (b : Byte), decode B = .ok i →
    (.extFile b ∈ fieldOps i ↔ B[15]? = some 2 ∧ B[16]? = some b) ∧
    (.extChan b ∈ fieldOps i ↔ B[15]? = some 2 ∧ B[17]? = some b) ∧
    (.extSubmode b ∈ fieldOps i ↔ B[15]? = some 2 ∧ B[18]? = some b) ∧
    (.extCi b ∈ fieldOps i ↔ B[15]? = some 2 ∧ B[19]? = some b)) ∧
  (∀ (B : Block) (i : Instr) (s : State), decode B = .ok i → B[15]? ≠ some 2 → ∃ t, exec i s = .next t ∧
    t.desc.file = none ∧ t.desc.channel = none ∧ t.desc.submode = none ∧ t.desc.codinginfo = none)

/-- R136 to R143: each of the eight flag operations writes its own bit of the submode byte (FORM: one more than the bit) to
its own register and nothing else; exactly the blocks of mode 2 run them, on their byte 18; for modes 0 and 1 the eight
registers are absent. That each can be executed alone, in every state, is the model's choice (log entry 8). -/
def Obligations.FlagDecodersReadTheirOwnBit : Prop :=
  (∀ (b : Byte) (s : State),
    exec (.flgEor b) s = .next { s with desc := { s.desc with eor := some (decide (b &&& 0x01 ≠ 0)) } } ∧
    exec (.flgVideo b) s = .next { s with desc := { s.desc with typeVideo := some (decide (b &&& 0x02 ≠ 0)) } } ∧
    exec (.flgAudio b) s = .next { s with desc := { s.desc with typeAudio := some (decide (b &&& 0x04 ≠ 0)) } } ∧
    exec (.flgData b) s = .next { s with desc := { s.desc with typeData := some (decide (b &&& 0x08 ≠ 0)) } } ∧
    exec (.flgTrigger b) s = .next { s with desc := { s.desc with trigger := some (decide (b &&& 0x10 ≠ 0)) } } ∧
    exec (.flgForm b) s = .next { s with desc := { s.desc with form := some (if b &&& 0x20 = 0 then 1 else 2) } } ∧
    exec (.flgRealtime b) s = .next { s with desc := { s.desc with realtime := some (decide (b &&& 0x40 ≠ 0)) } } ∧
    exec (.flgEof b) s = .next { s with desc := { s.desc with eof := some (decide (b &&& 0x80 ≠ 0)) } }) ∧
  (∀ (B : Block) (i : Instr) (b : Byte), decode B = .ok i →
    ∀ op ∈ [Instr.flgEor b, .flgVideo b, .flgAudio b, .flgData b, .flgTrigger b, .flgForm b, .flgRealtime b, .flgEof b],
      (op ∈ fieldOps i ↔ B[15]? = some 2 ∧ B[18]? = some b)) ∧
  (∀ (B : Block) (i : Instr) (s : State), decode B = .ok i → B[15]? ≠ some 2 → ∃ t, exec i s = .next t ∧
    t.desc.eor = none ∧ t.desc.typeVideo = none ∧ t.desc.typeAudio = none ∧ t.desc.typeData = none ∧
    t.desc.trigger = none ∧ t.desc.form = none ∧ t.desc.realtime = none ∧ t.desc.eof = none)

/-- R165: IS_FILLER writes IS_FILLER alone: 1 for mode 0, and for mode 2 exactly when the whole submode byte is 32; and
IS_FILLER of a block says the same of its bytes 15 and 18. R165 reads x[MODE], x[FORM] and x[SUBMODE]; that the instruction
carries the bytes instead, and answers the same in every state, is the model's choice (log entry 8). -/
def Obligations.FillerIsAnExactComparison : Prop :=
  (∀ s : State,
    exec (.isFiller 0 none) s = .next { s with desc := { s.desc with isFiller := some true } } ∧
    exec (.isFiller 1 none) s = .next { s with desc := { s.desc with isFiller := some false } } ∧
    ∀ b : Byte, exec (.isFiller 2 (some b)) s =
      .next { s with desc := { s.desc with isFiller := some (decide (b.toNat = 32)) } }) ∧
  (∀ (B : Block) (i : Instr) (s : State), decode B = .ok i → ∃ t f, exec i s = .next t ∧ t.desc.isFiller = some f ∧
    (f = true ↔ B[15]? = some 0 ∨ (B[15]? = some 2 ∧ B[18]? = some 32)))

/-! ### The classes and PARSE (spec/43_sector_classes.md) -/

/-- R157: SEC.M0 completes in every state: STATUS OK, the timecode, mode 0, data present and empty, a filler; the CSUM, ECC
and XA groups absent; every other register as before. A framed block whose byte 15 is 0 runs it on its bytes 12 to 14,
whatever its other bytes. STATUS, the timecode and MODE are R155's, and that the class instruction itself writes them is
the model's reading (log entry 14). -/
def Obligations.ModeZeroSector : Prop :=
  (∀ (mm ss ff : Byte) (s : State), ∃ vm vs vf : BitVec 8,
    vm.toNat = bcdValue mm ∧ vs.toNat = bcdValue ss ∧ vf.toNat = bcdValue ff ∧
    exec (.secM0 mm ss ff) s = .next { s with
      status := .ok
      desc := { Descriptor.absent with
        minute := some vm, second := some vs, sector := some vf, mode := some 0, isFiller := some true,
        dataOff := some 0, dataLen := some 0 } }) ∧
  (∀ (B : Block) (s : State), Framed B → B[15]? = some 0 → ∃ mm ss ff,
    B[12]? = some mm ∧ B[13]? = some ss ∧ B[14]? = some ff ∧ parse B s = exec (.secM0 mm ss ff) s)

/-- R158: SEC.M1 completes in every state: STATUS OK, the timecode, mode 1, data 16+2048, checksum 2064+4, ecc 2076+276, no
filler; the XA group absent; every other register as before. A framed block whose byte 15 is 1 runs it on its bytes 12
to 14. STATUS, the timecode and MODE are R155's, and that the class instruction itself writes them is the model's reading
(log entry 14). -/
def Obligations.ModeOneSector : Prop :=
  (∀ (mm ss ff : Byte) (s : State), ∃ vm vs vf : BitVec 8,
    vm.toNat = bcdValue mm ∧ vs.toNat = bcdValue ss ∧ vf.toNat = bcdValue ff ∧
    exec (.secM1 mm ss ff) s = .next { s with
      status := .ok
      desc := { Descriptor.absent with
        minute := some vm, second := some vs, sector := some vf, mode := some 1, isFiller := some false,
        dataOff := some 16, dataLen := some 2048, csumOff := some 2064, csumLen := some 4,
        eccOff := some 2076, eccLen := some 276 } }) ∧
  (∀ (B : Block) (s : State), Framed B → B[15]? = some 1 → ∃ mm ss ff,
    B[12]? = some mm ∧ B[13]? = some ss ∧ B[14]? = some ff ∧ parse B s = exec (.secM1 mm ss ff) s)

/-- R159: SEC.M2F1 completes in every state, for every operand with bit 5 of the submode byte 0: the subheader and the
flags, form 1, data 24+2048, checksum 2072+4, ecc 2076+276, no filler; every other register as before. A framed block
whose byte 15 is 2 with bit 5 of byte 18 at 0 runs it on its bytes 12 to 14 and 16 to 19. STATUS, the timecode and MODE are
R155's, and that the class instruction itself writes them is the model's reading (log entry 14). -/
def Obligations.ModeTwoFormOneSector : Prop :=
  (∀ (mm ss ff f c sm ci : Byte) (s : State), sm &&& 0x20 = 0 →
    ∃ (vm vs vf : BitVec 8) (ch : BitVec 5),
      vm.toNat = bcdValue mm ∧ vs.toNat = bcdValue ss ∧ vf.toNat = bcdValue ff ∧ ch.toNat = c.toNat % 32 ∧
      exec (.secM2F1 mm ss ff f c sm ci) s = .next { s with
        status := .ok
        desc :=
          { minute := some vm, second := some vs, sector := some vf, mode := some 2, isFiller := some false
            dataOff := some 24, dataLen := some 2048, csumOff := some 2072, csumLen := some 4
            eccOff := some 2076, eccLen := some 276
            file := some f, channel := some ch, submode := some sm, codinginfo := some ci
            eor := some (decide (sm &&& 0x01 ≠ 0)), typeVideo := some (decide (sm &&& 0x02 ≠ 0))
            typeAudio := some (decide (sm &&& 0x04 ≠ 0)), typeData := some (decide (sm &&& 0x08 ≠ 0))
            trigger := some (decide (sm &&& 0x10 ≠ 0)), form := some 1
            realtime := some (decide (sm &&& 0x40 ≠ 0)), eof := some (decide (sm &&& 0x80 ≠ 0)) } }) ∧
  (∀ (B : Block) (s : State) (sm : Byte), Framed B → B[15]? = some 2 → B[18]? = some sm → sm &&& 0x20 = 0 →
    ∃ mm ss ff f c ci, B[12]? = some mm ∧ B[13]? = some ss ∧ B[14]? = some ff ∧
      B[16]? = some f ∧ B[17]? = some c ∧ B[19]? = some ci ∧ parse B s = exec (.secM2F1 mm ss ff f c sm ci) s)

/-- R160: SEC.M2F2 completes in every state, for every operand with bit 5 of the submode byte 1: the subheader and the
flags, form 2, data 24+2324, checksum 2348+4, ecc absent, a filler exactly for submode 32; every other register as
before. A framed block whose byte 15 is 2 with bit 5 of byte 18 at 1 runs it on its bytes 12 to 14 and 16 to 19.
STATUS, the timecode and MODE are R155's, and that the class instruction itself writes them is the model's reading (log
entry 14). -/
def Obligations.ModeTwoFormTwoSector : Prop :=
  (∀ (mm ss ff f c sm ci : Byte) (s : State), sm &&& 0x20 ≠ 0 →
    ∃ (vm vs vf : BitVec 8) (ch : BitVec 5),
      vm.toNat = bcdValue mm ∧ vs.toNat = bcdValue ss ∧ vf.toNat = bcdValue ff ∧ ch.toNat = c.toNat % 32 ∧
      exec (.secM2F2 mm ss ff f c sm ci) s = .next { s with
        status := .ok
        desc :=
          { minute := some vm, second := some vs, sector := some vf, mode := some 2
            isFiller := some (decide (sm.toNat = 32))
            dataOff := some 24, dataLen := some 2324, csumOff := some 2348, csumLen := some 4
            eccOff := none, eccLen := none
            file := some f, channel := some ch, submode := some sm, codinginfo := some ci
            eor := some (decide (sm &&& 0x01 ≠ 0)), typeVideo := some (decide (sm &&& 0x02 ≠ 0))
            typeAudio := some (decide (sm &&& 0x04 ≠ 0)), typeData := some (decide (sm &&& 0x08 ≠ 0))
            trigger := some (decide (sm &&& 0x10 ≠ 0)), form := some 2
            realtime := some (decide (sm &&& 0x40 ≠ 0)), eof := some (decide (sm &&& 0x80 ≠ 0)) } }) ∧
  (∀ (B : Block) (s : State) (sm : Byte), Framed B → B[15]? = some 2 → B[18]? = some sm → sm &&& 0x20 ≠ 0 →
    ∃ mm ss ff f c ci, B[12]? = some mm ∧ B[13]? = some ss ∧ B[14]? = some ff ∧
      B[16]? = some f ∧ B[17]? = some c ∧ B[19]? = some ci ∧ parse B s = exec (.secM2F2 mm ss ff f c sm ci) s)

/-- R155: PARSE always answers a next state; a framed block of mode 0, 1 or 2 runs its class on its own bytes; every other
block is the error entry of its first defect. Nothing but STATUS, STICKY_ERR and the descriptor changes, and a success
leaves STICKY_ERR as it was. That PARSE leaves the byte-serial registers alone is the model's choice (log entry 4). -/
def Obligations.ParseRunsTheClassOrRaises : Prop :=
  ∀ (B : Block) (s : State), ∃ t, parse B s = .next t ∧
    t.done = s.done ∧ t.cnt = s.cnt ∧ t.syncOk = s.syncOk ∧ t.cap = s.cap ∧ t.inputs = s.inputs ∧
    (B.length ≠ 2352 → t.status = .badLength ∧ t.stickyErr = true ∧ t.desc = Descriptor.absent) ∧
    (B.length = 2352 → ¬ Framed B → t.status = .badSync ∧ t.stickyErr = true ∧ t.desc = Descriptor.absent) ∧
    (Framed B → ∀ m, B[15]? = some m → 3 ≤ m.toNat →
      t.status = .unknownMode ∧ t.stickyErr = true ∧ t.desc = Descriptor.absent) ∧
    (Framed B → ∀ m, B[15]? = some m → m.toNat ≤ 2 → t.status = .ok ∧ t.stickyErr = s.stickyErr ∧
      ∃ i, decode B = .ok i ∧ exec i s = .next t)

/-- R206: the error entry, at both levels: STATUS takes the error's code, STICKY_ERR is set, the descriptor is absent; an
ACCEPT whose COMMIT raises the error also restores CNT and SYNC_OK and sets DONE. Nothing is saved and control goes
nowhere: no other register changes but the capture register of the byte's offset, by part 2 of R184. -/
def Obligations.ErrorEntry : Prop :=
  (∀ (B : Block) (e : BlockError) (s : State), decode B = .error e → ∃ t, parse B s = .next t ∧
    t.stickyErr = true ∧ t.desc = Descriptor.absent ∧
    (statusCode t.status).toNat = match e with | .badLength => 2 | .badSync => 3 | .unknownMode => 4) ∧
  (∀ (d : Byte) (s : State), (s.cnt.toNat ≠ 2351 ∨ s.syncOk = false ∨ 3 ≤ s.cap.hMode.toNat) →
    ∃ t, accept d true s = .next t ∧
      t = { s with
        status := t.status
        stickyErr := true
        desc := Descriptor.absent
        cnt := 0
        syncOk := true
        done := true
        cap := t.cap } ∧
      Captures s.cnt.toNat d s.cap t.cap ∧
      (statusCode t.status).toNat =
        if s.cnt.toNat ≠ 2351 then 2 else if s.syncOk = false then 3 else 4)

/-- R33, for PARSE: the new STATUS and descriptor are a function of the bytes of the block alone; two states that differ in
everything give the same result. -/
def Obligations.ParseLeavesNoResidue : Prop :=
  ∀ (B : Block) (s s' : State), ∃ t t', parse B s = .next t ∧ parse B s' = .next t' ∧ t.result = t'.result

/-- R61 and R87: PARSE reads no other byte. Blocks of one length with the same sync bytes, timecode and mode, and for mode 2
the same subheader, are parsed alike, whatever their other bytes. -/
def Obligations.UnreadBytesPlayNoPart : Prop :=
  ∀ (B C : Block) (s : State), B.length = C.length → B.take 16 = C.take 16 →
    (B[15]? = some 2 → B.take 20 = C.take 20) → parse B s = parse C s

/-- R155 and the `applies_to` of the field rows: a class has on every register a field operation writes the value that its
field operations, run one by one from the same state, leave there. -/
def Obligations.ClassRunsItsFieldOperations : Prop :=
  ∀ (i : Instr) (s : State), i.isClass = true → i.wellFormed = true → ∃ t u,
    exec i s = .next t ∧ execAll (fieldOps i) s = .next u ∧
    t.desc.minute = u.desc.minute ∧ t.desc.second = u.desc.second ∧ t.desc.sector = u.desc.sector ∧
    t.desc.mode = u.desc.mode ∧ t.desc.isFiller = u.desc.isFiller ∧
    (t.desc.mode = some 2 →
      t.desc.file = u.desc.file ∧ t.desc.channel = u.desc.channel ∧ t.desc.submode = u.desc.submode ∧
      t.desc.codinginfo = u.desc.codinginfo ∧ t.desc.eor = u.desc.eor ∧ t.desc.typeVideo = u.desc.typeVideo ∧
      t.desc.typeAudio = u.desc.typeAudio ∧ t.desc.typeData = u.desc.typeData ∧ t.desc.trigger = u.desc.trigger ∧
      t.desc.form = u.desc.form ∧ t.desc.realtime = u.desc.realtime ∧ t.desc.eof = u.desc.eof)

/-- The order of a block's field operations cannot be observed: any rearrangement of them has the same effect on every
state. R116 says so of the DEC and R126 of the EXT operations, and R135 makes each FLG result depend on its own bit; that
IS_FILLER too may come first, although R165 reads registers, is the model's choice (log entry 8). -/
def Obligations.FieldOperationOrderUnobservable : Prop :=
  ∀ (B : Block) (i : Instr), decode B = .ok i →
    ∀ ops : List Instr, ops.Perm (fieldOps i) → ∀ s : State, ∃ t,
      execAll ops s = .next t ∧ execAll (fieldOps i) s = .next t

/-- R161: after a successful PARSE the range registers are those of the block's mode and form and depend on nothing else;
the payload length is 0, 2048 or 2324; every present range lies inside the block, and no two overlap. -/
def Obligations.RangesDependOnTheClassAlone : Prop :=
  ∀ (B : Block) (s : State), Framed B → ∀ m sm, B[15]? = some m → m.toNat ≤ 2 → B[18]? = some sm → ∃ t,
    parse B s = .next t ∧
    t.desc.ranges = rangesOf m.toNat (if sm &&& 0x20 = 0 then 1 else 2) ∧
    (∀ len, t.desc.dataLen = some len → len.toNat = 0 ∨ len.toNat = 2048 ∨ len.toNat = 2324) ∧
    (∀ off len, t.desc.dataOff = some off → t.desc.dataLen = some len → off.toNat + len.toNat ≤ 2352 ∧
      ∀ o, (t.desc.csumOff = some o ∨ t.desc.eccOff = some o) → off.toNat + len.toNat ≤ o.toNat) ∧
    (∀ off len, t.desc.csumOff = some off → t.desc.csumLen = some len → off.toNat + len.toNat ≤ 2352 ∧
      ∀ o, t.desc.eccOff = some o → off.toNat + len.toNat ≤ o.toNat) ∧
    (∀ off len, t.desc.eccOff = some off → t.desc.eccLen = some len → off.toNat + len.toNat = 2352)

/-- R164: the slices of the block the host holds. After a successful PARSE the payload is 0, 2048 or 2324 bytes of the
block unchanged, from offset 16 or 24; the checksum is 4 bytes and the ecc 276, where the class has them. -/
def Obligations.SlicesAreTheBlocksOwnBytes : Prop :=
  ∀ (B : Block) (s : State), Framed B → ∀ m sm, B[15]? = some m → m.toNat ≤ 2 → B[18]? = some sm → ∃ t,
    parse B s = .next t ∧
    (m.toNat = 0 → dataSlice B t = some [] ∧ csumSlice B t = none ∧ eccSlice B t = none) ∧
    (m.toNat = 1 → ∃ data csum ecc, dataSlice B t = some data ∧ csumSlice B t = some csum ∧ eccSlice B t = some ecc ∧
      data.length = 2048 ∧ csum.length = 4 ∧ ecc.length = 276 ∧
      (∀ j, j < 2048 → data[j]? = B[16 + j]?) ∧ (∀ j, j < 4 → csum[j]? = B[2064 + j]?) ∧
      (∀ j, j < 276 → ecc[j]? = B[2076 + j]?)) ∧
    (m.toNat = 2 → sm &&& 0x20 = 0 →
      ∃ data csum ecc, dataSlice B t = some data ∧ csumSlice B t = some csum ∧ eccSlice B t = some ecc ∧
      data.length = 2048 ∧ csum.length = 4 ∧ ecc.length = 276 ∧
      (∀ j, j < 2048 → data[j]? = B[24 + j]?) ∧ (∀ j, j < 4 → csum[j]? = B[2072 + j]?) ∧
      (∀ j, j < 276 → ecc[j]? = B[2076 + j]?)) ∧
    (m.toNat = 2 → sm &&& 0x20 ≠ 0 →
      ∃ data csum, dataSlice B t = some data ∧ csumSlice B t = some csum ∧ eccSlice B t = none ∧
      data.length = 2324 ∧ csum.length = 4 ∧
      (∀ j, j < 2324 → data[j]? = B[24 + j]?) ∧ (∀ j, j < 4 → csum[j]? = B[2348 + j]?))

/-- R144: after the PARSE of any mode 2 block the eight flag registers rebuild the raw submode byte. -/
def Obligations.FlagsRebuildTheSubmode : Prop :=
  ∀ (B : Block) (s : State) (sm : Byte), Framed B → B[15]? = some 2 → B[18]? = some sm → ∃ t,
    parse B s = .next t ∧ xaPresent t = true ∧ t.desc.submode = some sm ∧ t.desc.submodeFromFlags = some sm.toNat

/-! ### The byte-serial interface (spec/44_stream_operations.md) -/

/-- R230 (with R181, R182 and R31): an edge with `rst` high is RESET whatever the other inputs, takes one step, and leaves
every register at its reset value, which is the initial state. Two RESETs are the same as one. -/
def Obligations.ResetEdge : Prop :=
  ∀ (s : State) (v v' l l' : Bool) (d d' : Byte) (rest : List Input), ∃ t,
    step { s with inputs := .edge true v d l :: rest } = .next t ∧
    (statusCode t.status).toNat = 0 ∧ t.stickyErr = false ∧ t.done = false ∧ t.desc = Descriptor.absent ∧
    t.cnt.toNat = 0 ∧ t.syncOk = true ∧ t.cap = ⟨0, 0, 0, 0, 0, 0, 0, 0⟩ ∧
    t.outcome = State.reset.outcome ∧
    step { t with inputs := .edge true v' d' l' :: rest } = .next t

/-- R183 and R181: edges with `rst` and `in_valid` low, any number of them at any point of a block and whatever `in_data`
and `in_last` carry, clear DONE and change nothing else. -/
def Obligations.IdleEdgesChangeNoResult : Prop :=
  ∀ (s : State) (ignored : List (Byte × Bool)) (rest : List Input), ignored ≠ [] →
    core.run ignored.length { s with inputs := ignored.map (fun e => .edge false false e.1 e.2) ++ rest } =
      .next { s with done := false, inputs := rest }

/-- R239: a RESET inside a block discards the bytes accepted so far. From any state at all, a RESET and then a block
presented from its first byte have the outcome of PARSE of that block after reset. -/
def Obligations.ResetDiscardsThePartialBlock : Prop :=
  ∀ (s : State) (v l : Bool) (d : Byte) (B : Block) (xs : List Input), B ≠ [] → Presents xs B → ∃ t u,
    core.run (xs.length + 1) { s with inputs := .edge true v d l :: xs } = .next t ∧
    parse B State.reset = .next u ∧ t.outcome = u.outcome

/-- R184, a byte that is not the last: SYNC_OK falls exactly on a wrong sync byte, the capture register of the byte's
offset takes it and the others stay, CNT advances and saturates at 2352, DONE falls; the result does not change. -/
def Obligations.AcceptCountsAndCaptures : Prop :=
  ∀ (s : State) (d : Byte) (rest : List Input), ∃ t,
    step { s with inputs := .edge false true d false :: rest } = .next t ∧
    t.outcome = s.outcome ∧ t.inputs = rest ∧ t.done = false ∧
    t.cnt.toNat = min (s.cnt.toNat + 1) 2352 ∧
    (t.syncOk = true ↔ s.syncOk = true ∧
      (s.cnt.toNat < 12 → d = if s.cnt.toNat = 0 ∨ s.cnt.toNat = 11 then 0x00 else 0xFF)) ∧
    t.cap.hMin = (if s.cnt.toNat = 12 then d else s.cap.hMin) ∧
    t.cap.hSec = (if s.cnt.toNat = 13 then d else s.cap.hSec) ∧
    t.cap.hSect = (if s.cnt.toNat = 14 then d else s.cap.hSect) ∧
    t.cap.hMode = (if s.cnt.toNat = 15 then d else s.cap.hMode) ∧
    t.cap.sFile = (if s.cnt.toNat = 16 then d else s.cap.sFile) ∧
    t.cap.sChan = (if s.cnt.toNat = 17 then d else s.cap.sChan) ∧
    t.cap.sSubmode = (if s.cnt.toNat = 18 then d else s.cap.sSubmode) ∧
    t.cap.sCi = (if s.cnt.toNat = 19 then d else s.cap.sCi)

/-- R186 with R184, a last byte: the block ends, CNT, SYNC_OK and DONE are as after every COMMIT, and the result is that of
R186's checks in their order: the length, the sync, the mode, then the class on the capture registers. The byte is captured
like any other, whatever ends the block. -/
def Obligations.CommitChecksInOrder : Prop :=
  ∀ (s : State) (d : Byte) (rest : List Input), ∃ t,
    step { s with inputs := .edge false true d true :: rest } = .next t ∧
    t.cnt = 0 ∧ t.syncOk = true ∧ t.done = true ∧ t.inputs = rest ∧
    Captures s.cnt.toNat d s.cap t.cap ∧
    (s.cnt.toNat ≠ 2351 → t.status = .badLength ∧ t.stickyErr = true ∧ t.desc = Descriptor.absent) ∧
    (s.cnt.toNat = 2351 → s.syncOk = false →
      t.status = .badSync ∧ t.stickyErr = true ∧ t.desc = Descriptor.absent) ∧
    (s.cnt.toNat = 2351 → s.syncOk = true → 3 ≤ s.cap.hMode.toNat →
      t.status = .unknownMode ∧ t.stickyErr = true ∧ t.desc = Descriptor.absent) ∧
    (s.cnt.toNat = 2351 → s.syncOk = true → s.cap.hMode.toNat ≤ 2 →
      t.status = .ok ∧ t.stickyErr = s.stickyErr ∧
      ∀ B : Block, Framed B → B[12]? = some s.cap.hMin → B[13]? = some s.cap.hSec → B[14]? = some s.cap.hSect →
        B[15]? = some s.cap.hMode → B[16]? = some s.cap.sFile → B[17]? = some s.cap.sChan →
        B[18]? = some s.cap.sSubmode → B[19]? = some s.cap.sCi → ∃ u, parse B s = .next u ∧ u.desc = t.desc)

/-- R190, the equivalence of the levels: a block presented byte by byte, from CNT 0 and SYNC_OK 1, with any idle steps
between the bytes, ends with the STATUS, STICKY_ERR and descriptor of PARSE of that block, with CNT 0, SYNC_OK 1 and DONE 1;
before the last byte the result is that of before the block. -/
def Obligations.SerialEqualsParse : Prop :=
  ∀ (s : State) (B : Block) (xs rest : List Input), s.cnt = 0 → s.syncOk = true → B ≠ [] → Presents xs B →
    (∃ t u, core.run xs.length { s with inputs := xs ++ rest } = .next t ∧ parse B s = .next u ∧
      t.outcome = u.outcome ∧ t.cnt = 0 ∧ t.syncOk = true ∧ t.done = true ∧ t.inputs = rest) ∧
    (∀ k, k < xs.length → ∃ t, core.run k { s with inputs := xs ++ rest } = .next t ∧ t.outcome = s.outcome)

/-- R190 and R207 along a whole program: a stream of blocks presented byte by byte has the outcome of PARSE of each in
turn, whatever errors the earlier ones raised; a short or over-long block does not shift the framing of the next (R187). -/
def Obligations.SerialProgramEqualsParses : Prop :=
  ∀ (Bs : List Block) (xss : List (List Input)) (s : State), s.cnt = 0 → s.syncOk = true →
    (∀ B ∈ Bs, B ≠ []) → List.Forall₂ Presents xss Bs → ∃ t u,
    core.run xss.flatten.length { s with inputs := xss.flatten } = .next t ∧ parseAll Bs s = .next u ∧
    t.outcome = u.outcome ∧ t.cnt = 0 ∧ t.syncOk = true

/-- R33, byte by byte: what the host can see never depends on what earlier blocks left in the capture registers. Two
machines at the start of a block that agree on everything but those registers stay alike to the host over any clock
edges, resets and block ends among them. -/
def Obligations.CaptureRegistersLeakNothing : Prop :=
  ∀ (s : State) (h : Header) (xs : List Input), s.cnt = 0 → (∀ x ∈ xs, x.isEdge = true) →
    ∀ k, k ≤ xs.length → ∃ t t',
      core.run k { s with inputs := xs } = .next t ∧ core.run k { s with inputs := xs, cap := h } = .next t' ∧
      t.outcome = t'.outcome ∧ t.done = t'.done ∧ t.cnt = t'.cnt ∧ t.syncOk = t'.syncOk

/-! ### The status registers, the ports, the whole machine (spec/10_state.md, spec/60, spec/70) -/

/-- R27: DONE is 1 after a clock edge that performed a COMMIT and 0 after every other. -/
def Obligations.DoneMarksTheCommit : Prop :=
  ∀ (s : State) (rst v l : Bool) (d : Byte) (rest : List Input), ∃ t,
    step { s with inputs := .edge rst v d l :: rest } = .next t ∧
    (t.done = true ↔ rst = false ∧ v = true ∧ l = true)

/-- R26: STICKY_ERR is set by every PARSE or COMMIT that ends in an error, kept by every other step, and cleared only by
RESET; and it plays no part in how a block is parsed. -/
def Obligations.StickyErrorIsClearedByResetAlone : Prop :=
  (∀ (s t : State), step s = .next t →
    (∃ v d l rest, s.inputs = .edge true v d l :: rest ∧ t.stickyErr = false) ∨
    ((∀ v d l rest, s.inputs ≠ .edge true v d l :: rest) ∧
      (t.stickyErr = true ↔ s.stickyErr = true ∨
        (isError t.status = true ∧
          ((∃ B rest, s.inputs = .parse B :: rest) ∨ ∃ d rest, s.inputs = .edge false true d true :: rest))))) ∧
  (∀ (B : Block) (s : State) (b : Bool), ∃ t u, parse B s = .next t ∧ parse B { s with stickyErr := b } = .next u ∧
    t.result = u.result)

/-- R235 and R221: STATUS, STICKY_ERR and the descriptor change only in the step that accepts the last byte of a block, in
a PARSE, or in a RESET. -/
def Obligations.ResultIsStableBetweenBlocks : Prop :=
  ∀ (s t : State), step s = .next t → t.outcome ≠ s.outcome →
    (∃ d rest, s.inputs = .edge false true d true :: rest) ∨ (∃ B rest, s.inputs = .parse B :: rest) ∨
    (∃ v d l rest, s.inputs = .edge true v d l :: rest)

/-- R236 and R24: the use of a descriptor register's port is a fault of the host exactly while the register's group is
absent; a status port can always be used; a use changes nothing (R66). That a use is an input and a step of its own, which
leaves every register, DONE among them, is the model's choice (log entry 6). Under the invariant, which rules out the
states before the first RESET. -/
def Obligations.AbsentRegistersFaultTheHost : Prop :=
  ∀ (s : State) (p : OutPort) (rest : List Input), s.Inv → s.inputs = .read p :: rest →
    let absent : Prop :=
      (p ∈ [.minute, .second, .sector, .mode, .isFiller, .dataOff, .dataLen] ∧ hdrPresent s = false) ∨
      (p ∈ [.csumOff, .csumLen] ∧ csumPresent s = false) ∨
      (p ∈ [.eccOff, .eccLen] ∧ eccPresent s = false) ∨
      (p ∈ [.file, .channel, .submode, .codinginfo, .eor, .typeVideo, .typeAudio, .typeData, .trigger, .form, .realtime,
        .eof] ∧ xaPresent s = false)
    (absent → step s = .fault (.absentRegister p) ∧ portLevel s p = 0) ∧
    (¬ absent → step s = .next { s with inputs := rest })

/-- R23: the presence ports, after RESET and after a PARSE, by the block: no group after a RESET or an error; HDR after
every success, XA for mode 2 alone, CSUM for modes 1 and 2, ECC for mode 1 and for mode 2 form 1. -/
def Obligations.PresenceFollowsTheClass : Prop :=
  (∀ s : State, hdrPresent (resetOp s) = false ∧ xaPresent (resetOp s) = false ∧ csumPresent (resetOp s) = false ∧
    eccPresent (resetOp s) = false) ∧
  ∀ (B : Block) (s : State), ∃ t, parse B s = .next t ∧
    ((∃ e, decode B = .error e) → hdrPresent t = false ∧ xaPresent t = false ∧ csumPresent t = false ∧
      eccPresent t = false) ∧
    (∀ m sm, Framed B → B[15]? = some m → B[18]? = some sm → m.toNat ≤ 2 →
      hdrPresent t = true ∧ xaPresent t = decide (m.toNat = 2) ∧ csumPresent t = decide (1 ≤ m.toNat) ∧
      eccPresent t = decide (m.toNat = 1 ∨ (m.toNat = 2 ∧ sm &&& 0x20 = 0)))

/-- R180, R22 and R25: the ports. Their widths as numbers, and every level fits its width; and, under the invariant, which
rules out the states before the first RESET, what each port shows: STATUS's code, `err` for codes 2, 3 and 4, the bits, the
presence of R23, each descriptor register's own value while its group is present, and nothing, with all wires 0, while it is
absent. -/
def Obligations.PortsCarryTheirRegisters : Prop :=
  (∀ p ∈ [OutPort.err, .stickyErr, .done, .hdrPresent, .xaPresent, .csumPresent, .eccPresent, .isFiller, .eor, .typeVideo,
    .typeAudio, .typeData, .trigger, .realtime, .eof], portWidth p = 1) ∧
  (∀ p ∈ [OutPort.mode, .form], portWidth p = 2) ∧ portWidth .status = 3 ∧ portWidth .channel = 5 ∧
  (∀ p ∈ [OutPort.minute, .second, .sector, .file, .submode, .codinginfo], portWidth p = 8) ∧
  (∀ p ∈ [OutPort.dataOff, .dataLen, .csumOff, .csumLen, .eccOff, .eccLen], portWidth p = 12) ∧
  (∀ (s : State) (p : OutPort), portLevel s p < 2 ^ portWidth p) ∧
  ∀ s : State, s.Inv →
    Shows s .status (match s.status with | .none => 0 | .ok => 1 | .badLength => 2 | .badSync => 3 | .unknownMode => 4) ∧
    ShowsBit s .err (2 ≤ portLevel s .status ∧ portLevel s .status ≤ 4) ∧
    ShowsBit s .stickyErr (s.stickyErr = true) ∧ ShowsBit s .done (s.done = true) ∧
    ShowsBit s .hdrPresent (s.status = .ok) ∧
    ShowsBit s .xaPresent (s.status = .ok ∧ s.desc.mode = some 2) ∧
    ShowsBit s .csumPresent (s.status = .ok ∧ (s.desc.mode = some 1 ∨ s.desc.mode = some 2)) ∧
    ShowsBit s .eccPresent
      (s.status = .ok ∧ (s.desc.mode = some 1 ∨ (s.desc.mode = some 2 ∧ s.desc.form = some 1))) ∧
    (hdrPresent s = true →
      Carries s .minute s.desc.minute ∧ Carries s .second s.desc.second ∧ Carries s .sector s.desc.sector ∧
      Carries s .mode s.desc.mode ∧ CarriesBit s .isFiller s.desc.isFiller ∧
      Carries s .dataOff s.desc.dataOff ∧ Carries s .dataLen s.desc.dataLen) ∧
    (csumPresent s = true → Carries s .csumOff s.desc.csumOff ∧ Carries s .csumLen s.desc.csumLen) ∧
    (eccPresent s = true → Carries s .eccOff s.desc.eccOff ∧ Carries s .eccLen s.desc.eccLen) ∧
    (xaPresent s = true →
      Carries s .file s.desc.file ∧ Carries s .channel s.desc.channel ∧ Carries s .submode s.desc.submode ∧
      Carries s .codinginfo s.desc.codinginfo ∧ CarriesBit s .eor s.desc.eor ∧
      CarriesBit s .typeVideo s.desc.typeVideo ∧ CarriesBit s .typeAudio s.desc.typeAudio ∧
      CarriesBit s .typeData s.desc.typeData ∧ CarriesBit s .trigger s.desc.trigger ∧ Carries s .form s.desc.form ∧
      CarriesBit s .realtime s.desc.realtime ∧ CarriesBit s .eof s.desc.eof) ∧
    (hdrPresent s = false → ∀ p ∈ [OutPort.minute, .second, .sector, .mode, .isFiller, .dataOff, .dataLen],
      ShowsNothing s p) ∧
    (csumPresent s = false → ∀ p ∈ [OutPort.csumOff, .csumLen], ShowsNothing s p) ∧
    (eccPresent s = false → ∀ p ∈ [OutPort.eccOff, .eccLen], ShowsNothing s p) ∧
    (xaPresent s = false → ∀ p ∈ [OutPort.file, .channel, .submode, .codinginfo, .eor, .typeVideo, .typeAudio, .typeData,
      .trigger, .form, .realtime, .eof], ShowsNothing s p)

/-- The invariant of the machine holds after RESET (R31). -/
def Obligations.InvariantHoldsAtReset : Prop := State.reset.Inv

/-- The invariant of the machine is kept by every step: the counter's bound, the groups' presence, the value ranges of R22,
the ranges by class, the reconstruction law and the filler predicate, the sticky bit and DONE. -/
def Obligations.EveryStepKeepsTheInvariant : Prop := ∀ s t : State, s.Inv → step s = .next t → t.Inv

/-- A step runs the decoded instruction. At the transaction level: when the next input is a PARSE of any block, the step is
that PARSE with the input consumed, and so the error entry for a refused block (R206) and `exec i` for a block that
decodes to `i`. At the byte-serial level: when the next input is the last byte of a
framed block whose other bytes SHP has accepted, the step is `exec i`, then CNT 0, SYNC_OK 1, DONE 1. And a word of the
opcode table that decodes to `i`, placed by `withFetchWord`, is what the very next step runs (log entries 3 and 7). -/
def Obligations.StepRunsTheDecodedInstruction : Prop :=
  (∀ (s : State) (B : Block) (rest : List Input), s.inputs = .parse B :: rest →
    step s = parse B { s with inputs := rest } ∧
    ∀ e, decode B = .error e → ∃ t, step s = .next t ∧ t.status = errorStatus e ∧ t.stickyErr = true ∧
      t.desc = Descriptor.absent ∧ t.inputs = rest) ∧
  (∀ (s : State) (B : Block) (i : Instr) (rest : List Input), s.inputs = .parse B :: rest → decode B = .ok i →
    i.wellFormed = true ∧ step s = exec i { s with inputs := rest }) ∧
  (∀ (s : State) (B : Block) (i : Instr) (d : Byte) (rest : List Input),
    s.inputs = .edge false true d true :: rest → s.cnt.toNat = 2351 → s.syncOk = true →
    readHeader B = some s.cap → decode B = .ok i →
    ∃ t, exec i { s with inputs := rest } = .next t ∧
      step s = .next { t with cnt := 0, syncOk := true, done := true }) ∧
  (∀ (s : State) (nbits w : Nat) (i : Instr), decodeTableWord nbits w = some i →
    step (s.withFetchWord nbits w) = exec i s)

/-- Every step answers a next state, but for one: a use of the port of an absent register. No step is refused. -/
def Obligations.OnlyAnAbsentReadStops : Prop :=
  ∀ s : State, (∃ t, step s = .next t) ∨
    ∃ p rest, s.inputs = .read p :: rest ∧ portValue s p = none ∧ step s = .fault (.absentRegister p)

/-- The model's choice (log entry 2): a step for which the host has presented nothing is an IDLE step of R183. It clears
DONE and changes nothing else. -/
def Obligations.NothingPresentedIsIdle : Prop :=
  ∀ s : State, s.inputs = [] → step s = .next { s with done := false }
end

