-- ==== Sys2Proof/Laws/Decode.lean ====
section
/-! SUPPORT. What the decoder and its parts can answer. -/

namespace Sys2Proof

@[simp] theorem sync_length : sync.length = syncLen := rfl

theorem readHeader_eq_some {B : Block} {h : Header} (hh : readHeader B = some h) :
    B[12]? = some h.hMin ∧ B[13]? = some h.hSec ∧ B[14]? = some h.hSect ∧ B[15]? = some h.hMode ∧
      B[16]? = some h.sFile ∧ B[17]? = some h.sChan ∧ B[18]? = some h.sSubmode ∧ B[19]? = some h.sCi := by
  unfold readHeader memRead at hh
  split at hh
  · cases hh; exact ⟨‹_›, ‹_›, ‹_›, ‹_›, ‹_›, ‹_›, ‹_›, ‹_›⟩
  · cases hh

theorem readHeader_of_bytes {B : Block} {h : Header} (h12 : B[12]? = some h.hMin) (h13 : B[13]? = some h.hSec)
    (h14 : B[14]? = some h.hSect) (h15 : B[15]? = some h.hMode) (h16 : B[16]? = some h.sFile)
    (h17 : B[17]? = some h.sChan) (h18 : B[18]? = some h.sSubmode) (h19 : B[19]? = some h.sCi) :
    readHeader B = some h := by
  simp [readHeader, memRead, offMin, offSec, offSect, offMode, offFile, offChan, offSubmode, offCi, *]

/-- A block long enough has its eight header bytes (R62). -/
theorem readHeader_isSome {B : Block} (hl : 20 ≤ B.length) : ∃ h, readHeader B = some h := by
  refine ⟨⟨B[12], B[13], B[14], B[15], B[16], B[17], B[18], B[19]⟩, readHeader_of_bytes ?_ ?_ ?_ ?_ ?_ ?_ ?_ ?_⟩ <;>
    exact List.getElem?_eq_getElem _

/-- Everything `selectClass` can answer, by the mode byte and the function bit (R83). -/
theorem selectClass_cases (h : Header) :
    (h.hMode = 0 ∧ selectClass h = .ok (.secM0 h.hMin h.hSec h.hSect)) ∨
    (h.hMode = 1 ∧ selectClass h = .ok (.secM1 h.hMin h.hSec h.hSect)) ∨
    (h.hMode = 2 ∧ h.sSubmode.getLsbD 5 = false ∧
      selectClass h = .ok (.secM2F1 h.hMin h.hSec h.hSect h.sFile h.sChan h.sSubmode h.sCi)) ∨
    (h.hMode = 2 ∧ h.sSubmode.getLsbD 5 = true ∧
      selectClass h = .ok (.secM2F2 h.hMin h.hSec h.hSect h.sFile h.sChan h.sSubmode h.sCi)) ∨
    (h.hMode ≠ 0 ∧ h.hMode ≠ 1 ∧ h.hMode ≠ 2 ∧ selectClass h = .error .unknownMode) := by
  unfold selectClass form2Bit
  by_cases h0 : h.hMode = 0
  · exact .inl ⟨h0, by simp [h0]⟩
  by_cases h1 : h.hMode = 1
  · exact .inr (.inl ⟨h1, by simp [h1]⟩)
  by_cases h2 : h.hMode = 2
  · cases hb : h.sSubmode.getLsbD 5
    · exact .inr (.inr (.inl ⟨h2, rfl, by simp [h2]⟩))
    · exact .inr (.inr (.inr (.inl ⟨h2, rfl, by simp [h2]⟩)))
  · exact .inr (.inr (.inr (.inr ⟨h0, h1, h2, by rw [if_neg h0, if_neg h1, if_neg h2]⟩)))

/-- What `selectClass` selects is a well-formed class. -/
theorem selectClass_ok {h : Header} {i : Instr} (hs : selectClass h = .ok i) :
    i.isClass = true ∧ i.wellFormed = true := by
  rcases selectClass_cases h with ⟨_, e⟩ | ⟨_, e⟩ | ⟨_, hb, e⟩ | ⟨_, hb, e⟩ | ⟨_, _, _, e⟩ <;>
    rw [e] at hs <;> cases hs
  · exact ⟨rfl, rfl⟩
  · exact ⟨rfl, rfl⟩
  · exact ⟨rfl, congrArg Bool.not hb⟩
  · exact ⟨rfl, hb⟩

/-- A block of the right length with a good sync is decided by its header (R84). -/
theorem decode_of_sync {B : Block} (hl : B.length = blockLen) (hs : B.take syncLen = sync) :
    ∃ h, readHeader B = some h ∧ decode B = selectClass h := by
  obtain ⟨h, hh⟩ := readHeader_isSome (B := B) (by rw [hl]; decide)
  exact ⟨h, hh, by simp [decode, hl, hs, hh]⟩

/-- Everything `decode` can answer, in the order of R84. -/
theorem decode_cases (B : Block) :
    (B.length ≠ blockLen ∧ decode B = .error .badLength) ∨
    (B.length = blockLen ∧ B.take syncLen ≠ sync ∧ decode B = .error .badSync) ∨
    (B.length = blockLen ∧ B.take syncLen = sync ∧ ∃ h, readHeader B = some h ∧ decode B = selectClass h) := by
  by_cases hl : B.length = blockLen
  · by_cases hs : B.take syncLen = sync
    · exact .inr (.inr ⟨hl, hs, decode_of_sync hl hs⟩)
    · exact .inr (.inl ⟨hl, hs, by simp [decode, hl, hs]⟩)
  · exact .inl ⟨hl, by simp [decode, hl]⟩

/-- What `decode` accepts is a well-formed class. -/
theorem decode_ok {B : Block} {i : Instr} (hd : decode B = .ok i) : i.isClass = true ∧ i.wellFormed = true := by
  rcases decode_cases B with ⟨_, e⟩ | ⟨_, _, e⟩ | ⟨_, _, h, _, e⟩
  · rw [e] at hd; cases hd
  · rw [e] at hd; cases hd
  · exact selectClass_ok (e ▸ hd)

/-- What `decode` accepts, with the header it read and the class it selected. -/
theorem decode_ok_cases {B : Block} {i : Instr} (hd : decode B = .ok i) :
    B.length = blockLen ∧ B.take syncLen = sync ∧ ∃ h, readHeader B = some h ∧
      ((h.hMode = 0 ∧ i = .secM0 h.hMin h.hSec h.hSect) ∨
       (h.hMode = 1 ∧ i = .secM1 h.hMin h.hSec h.hSect) ∨
       (h.hMode = 2 ∧ h.sSubmode.getLsbD 5 = false ∧
         i = .secM2F1 h.hMin h.hSec h.hSect h.sFile h.sChan h.sSubmode h.sCi) ∨
       (h.hMode = 2 ∧ h.sSubmode.getLsbD 5 = true ∧
         i = .secM2F2 h.hMin h.hSec h.hSect h.sFile h.sChan h.sSubmode h.sCi)) := by
  rcases decode_cases B with ⟨_, e⟩ | ⟨_, _, e⟩ | ⟨hl, hs, h, hh, e⟩
  · rw [e] at hd; cases hd
  · rw [e] at hd; cases hd
  · refine ⟨hl, hs, h, hh, ?_⟩
    rw [e] at hd
    rcases selectClass_cases h with ⟨hm, e⟩ | ⟨hm, e⟩ | ⟨hm, hb, e⟩ | ⟨hm, hb, e⟩ | ⟨_, _, _, e⟩ <;>
      rw [e] at hd <;> cases hd
    · exact .inl ⟨hm, rfl⟩
    · exact .inr (.inl ⟨hm, rfl⟩)
    · exact .inr (.inr (.inl ⟨hm, hb, rfl⟩))
    · exact .inr (.inr (.inr ⟨hm, hb, rfl⟩))

end Sys2Proof
end

