-- ==== Sys2Proof/Laws/Fields.lean ====
section
/-! SUPPORT. The values of the operand and flag computations as numbers and masks. -/

namespace Sys2Proof.Machine

open Sys2Proof

/-- The two nibbles of a byte as numbers. -/
theorem nibbles_toNat (b : Byte) :
    (b.extractLsb' 4 4).toNat = b.toNat / 16 ∧ (b.extractLsb' 0 4).toNat = b.toNat % 16 := by
  have hb := b.isLt
  constructor
  · rw [BitVec.extractLsb'_toNat, Nat.shiftRight_eq_div_pow]; omega
  · rw [BitVec.extractLsb'_toNat]; simp

/-- No result of the decoder is truncated (R115). -/
theorem bcd2bin_toNat (b : Byte) : (bcd2bin b).toNat = 10 * (b.toNat / 16) + b.toNat % 16 := by
  have hb := b.isLt
  unfold bcd2bin
  rw [(nibbles_toNat b).1, (nibbles_toNat b).2, BitVec.toNat_ofNat]
  omega

theorem bcd2bin_le (b : Byte) : (bcd2bin b).toNat ≤ 165 := by
  have hb := b.isLt
  rw [bcd2bin_toNat]; omega

/-- The channel is the low five bits of its byte (R123). -/
theorem channelOf_toNat (b : Byte) : (channelOf b).toNat = b.toNat % 32 := by
  unfold channelOf
  rw [BitVec.toNat_setWidth, BitVec.toNat_and]
  rw [show (0x1F : Byte).toNat = 2 ^ 5 - 1 from rfl, Nat.and_two_pow_sub_one_eq_mod]
  omega

/-- The form is 1 or 2, by bit 5 (R141). -/
theorem formOf_eq (s : Byte) : formOf s = if s.getLsbD 5 then 2 else 1 := by
  have h : s.extractLsb' 5 1 = if s.getLsbD 5 then 1 else 0 := by
    apply BitVec.eq_of_getLsbD_eq
    intro i hi
    have : i = 0 := by omega
    subst this
    cases hb : s.getLsbD 5 <;> simpa using hb
  unfold formOf
  rw [h]
  cases s.getLsbD 5 <;> decide

end Sys2Proof.Machine
end

