-- ==== Sys2Proof/Laws/State.lean ====
section
/-! SUPPORT. One lemma per field of State for each operation on it, so that no later proof unfolds a record update. -/

namespace Sys2Proof.Machine

open Sys2Proof

@[simp] theorem writeDesc_status (f : Descriptor → Descriptor) (s : State) : (writeDesc f s).status = s.status := rfl
@[simp] theorem writeDesc_stickyErr (f : Descriptor → Descriptor) (s : State) : (writeDesc f s).stickyErr = s.stickyErr := rfl
@[simp] theorem writeDesc_done (f : Descriptor → Descriptor) (s : State) : (writeDesc f s).done = s.done := rfl
@[simp] theorem writeDesc_desc (f : Descriptor → Descriptor) (s : State) : (writeDesc f s).desc = f s.desc := rfl
@[simp] theorem writeDesc_cnt (f : Descriptor → Descriptor) (s : State) : (writeDesc f s).cnt = s.cnt := rfl
@[simp] theorem writeDesc_syncOk (f : Descriptor → Descriptor) (s : State) : (writeDesc f s).syncOk = s.syncOk := rfl
@[simp] theorem writeDesc_cap (f : Descriptor → Descriptor) (s : State) : (writeDesc f s).cap = s.cap := rfl
@[simp] theorem writeDesc_inputs (f : Descriptor → Descriptor) (s : State) : (writeDesc f s).inputs = s.inputs := rfl

@[simp] theorem statusOk_status (s : State) : (statusOk s).status = .ok := rfl
@[simp] theorem statusOk_stickyErr (s : State) : (statusOk s).stickyErr = s.stickyErr := rfl
@[simp] theorem statusOk_done (s : State) : (statusOk s).done = s.done := rfl
@[simp] theorem statusOk_desc (s : State) : (statusOk s).desc = s.desc := rfl
@[simp] theorem statusOk_cnt (s : State) : (statusOk s).cnt = s.cnt := rfl
@[simp] theorem statusOk_syncOk (s : State) : (statusOk s).syncOk = s.syncOk := rfl
@[simp] theorem statusOk_cap (s : State) : (statusOk s).cap = s.cap := rfl
@[simp] theorem statusOk_inputs (s : State) : (statusOk s).inputs = s.inputs := rfl

@[simp] theorem raiseError_status (e : BlockError) (s : State) : (raiseError e s).status = errorStatus e := rfl
@[simp] theorem raiseError_stickyErr (e : BlockError) (s : State) : (raiseError e s).stickyErr = true := rfl
@[simp] theorem raiseError_done (e : BlockError) (s : State) : (raiseError e s).done = s.done := rfl
@[simp] theorem raiseError_desc (e : BlockError) (s : State) : (raiseError e s).desc = Descriptor.absent := rfl
@[simp] theorem raiseError_cnt (e : BlockError) (s : State) : (raiseError e s).cnt = s.cnt := rfl
@[simp] theorem raiseError_syncOk (e : BlockError) (s : State) : (raiseError e s).syncOk = s.syncOk := rfl
@[simp] theorem raiseError_cap (e : BlockError) (s : State) : (raiseError e s).cap = s.cap := rfl
@[simp] theorem raiseError_inputs (e : BlockError) (s : State) : (raiseError e s).inputs = s.inputs := rfl

@[simp] theorem resetOp_status (s : State) : (resetOp s).status = .none := rfl
@[simp] theorem resetOp_stickyErr (s : State) : (resetOp s).stickyErr = false := rfl
@[simp] theorem resetOp_done (s : State) : (resetOp s).done = false := rfl
@[simp] theorem resetOp_desc (s : State) : (resetOp s).desc = Descriptor.absent := rfl
@[simp] theorem resetOp_cnt (s : State) : (resetOp s).cnt = 0 := rfl
@[simp] theorem resetOp_syncOk (s : State) : (resetOp s).syncOk = true := rfl
@[simp] theorem resetOp_cap (s : State) : (resetOp s).cap = ⟨0, 0, 0, 0, 0, 0, 0, 0⟩ := rfl
@[simp] theorem resetOp_inputs (s : State) : (resetOp s).inputs = s.inputs := rfl

@[simp] theorem idleOp_status (s : State) : (idleOp s).status = s.status := rfl
@[simp] theorem idleOp_stickyErr (s : State) : (idleOp s).stickyErr = s.stickyErr := rfl
@[simp] theorem idleOp_done (s : State) : (idleOp s).done = false := rfl
@[simp] theorem idleOp_desc (s : State) : (idleOp s).desc = s.desc := rfl
@[simp] theorem idleOp_cnt (s : State) : (idleOp s).cnt = s.cnt := rfl
@[simp] theorem idleOp_syncOk (s : State) : (idleOp s).syncOk = s.syncOk := rfl
@[simp] theorem idleOp_cap (s : State) : (idleOp s).cap = s.cap := rfl
@[simp] theorem idleOp_inputs (s : State) : (idleOp s).inputs = s.inputs := rfl

@[simp] theorem capture_status (i : Nat) (d : Byte) (s : State) : (capture i d s).status = s.status := rfl
@[simp] theorem capture_stickyErr (i : Nat) (d : Byte) (s : State) : (capture i d s).stickyErr = s.stickyErr := rfl
@[simp] theorem capture_done (i : Nat) (d : Byte) (s : State) : (capture i d s).done = s.done := rfl
@[simp] theorem capture_desc (i : Nat) (d : Byte) (s : State) : (capture i d s).desc = s.desc := rfl
@[simp] theorem capture_cnt (i : Nat) (d : Byte) (s : State) : (capture i d s).cnt = s.cnt := rfl
@[simp] theorem capture_syncOk (i : Nat) (d : Byte) (s : State) : (capture i d s).syncOk = s.syncOk := rfl
@[simp] theorem capture_cap (i : Nat) (d : Byte) (s : State) : (capture i d s).cap = captureByte i d s.cap := rfl
@[simp] theorem capture_inputs (i : Nat) (d : Byte) (s : State) : (capture i d s).inputs = s.inputs := rfl

@[simp] theorem countByte_status (i : Nat) (s : State) : (countByte i s).status = s.status := rfl
@[simp] theorem countByte_stickyErr (i : Nat) (s : State) : (countByte i s).stickyErr = s.stickyErr := rfl
@[simp] theorem countByte_done (i : Nat) (s : State) : (countByte i s).done = false := rfl
@[simp] theorem countByte_desc (i : Nat) (s : State) : (countByte i s).desc = s.desc := rfl
@[simp] theorem countByte_cnt (i : Nat) (s : State) : (countByte i s).cnt = nextCnt i := rfl
@[simp] theorem countByte_syncOk (i : Nat) (s : State) : (countByte i s).syncOk = s.syncOk := rfl
@[simp] theorem countByte_cap (i : Nat) (s : State) : (countByte i s).cap = s.cap := rfl
@[simp] theorem countByte_inputs (i : Nat) (s : State) : (countByte i s).inputs = s.inputs := rfl

@[simp] theorem endBlock_status (s : State) : (endBlock s).status = s.status := rfl
@[simp] theorem endBlock_stickyErr (s : State) : (endBlock s).stickyErr = s.stickyErr := rfl
@[simp] theorem endBlock_done (s : State) : (endBlock s).done = true := rfl
@[simp] theorem endBlock_desc (s : State) : (endBlock s).desc = s.desc := rfl
@[simp] theorem endBlock_cnt (s : State) : (endBlock s).cnt = 0 := rfl
@[simp] theorem endBlock_syncOk (s : State) : (endBlock s).syncOk = true := rfl
@[simp] theorem endBlock_cap (s : State) : (endBlock s).cap = s.cap := rfl
@[simp] theorem endBlock_inputs (s : State) : (endBlock s).inputs = s.inputs := rfl

@[simp] theorem watchSync_status (i : Nat) (d : Byte) (s : State) : (watchSync i d s).status = s.status := by
  unfold watchSync; split <;> rfl
@[simp] theorem watchSync_stickyErr (i : Nat) (d : Byte) (s : State) : (watchSync i d s).stickyErr = s.stickyErr := by
  unfold watchSync; split <;> rfl
@[simp] theorem watchSync_done (i : Nat) (d : Byte) (s : State) : (watchSync i d s).done = s.done := by
  unfold watchSync; split <;> rfl
@[simp] theorem watchSync_desc (i : Nat) (d : Byte) (s : State) : (watchSync i d s).desc = s.desc := by
  unfold watchSync; split <;> rfl
@[simp] theorem watchSync_cnt (i : Nat) (d : Byte) (s : State) : (watchSync i d s).cnt = s.cnt := by
  unfold watchSync; split <;> rfl
@[simp] theorem watchSync_syncOk (i : Nat) (d : Byte) (s : State) :
    (watchSync i d s).syncOk = (s.syncOk && !decide (i < syncLen ∧ sync[i]? ≠ some d)) := by
  unfold watchSync; split
  · rw [decide_eq_true ‹_›]; exact (Bool.and_false _).symm
  · rw [decide_eq_false ‹_›]; exact (Bool.and_true _).symm
@[simp] theorem watchSync_cap (i : Nat) (d : Byte) (s : State) : (watchSync i d s).cap = s.cap := by
  unfold watchSync; split <;> rfl
@[simp] theorem watchSync_inputs (i : Nat) (d : Byte) (s : State) : (watchSync i d s).inputs = s.inputs := by
  unfold watchSync; split <;> rfl

end Sys2Proof.Machine
end

