-- ==== Sys2Proof/Laws/Ops.lean ====
section
/-! SUPPORT. What a meaning can do to the state, said once for all of them, and the whole effect of each class. -/

namespace Sys2Proof.Machine

open Sys2Proof

/-- `putMode` writes the register or raises the error (R121). -/
theorem putMode_cases (b : Byte) (s : State) :
    (∃ m, modeOf b = some m ∧ putMode b s = writeDesc (fun d => { d with mode := some m }) s) ∨
    (modeOf b = none ∧ putMode b s = raiseError .unknownMode s) := by
  unfold putMode
  cases h : modeOf b with
  | none => exact .inr ⟨rfl, rfl⟩
  | some m => exact .inl ⟨m, rfl, rfl⟩

/-- Every instruction answers a next state that differs at most in STATUS, STICKY_ERR and the descriptor. -/
theorem exec_answers_next (i : Instr) (s : State) :
    ∃ st se d, exec i s = .next { s with status := st, stickyErr := se, desc := d } := by
  cases i with
  | extMode b =>
    rcases putMode_cases b s with ⟨m, _, e⟩ | ⟨_, e⟩
    · exact ⟨_, _, _, congrArg _ e⟩
    · exact ⟨_, _, _, congrArg _ e⟩
  | _ => exact ⟨_, _, _, rfl⟩

/-- The descriptor a class leaves (R155 to R160); the empty one for a field operation, which is no class. -/
def classDescriptor : Instr → Descriptor
  | .secM0 mm ss ff =>
      { Descriptor.absent with
        minute := some (bcd2bin mm), second := some (bcd2bin ss), sector := some (bcd2bin ff), mode := some 0,
        isFiller := some true, dataOff := some 0, dataLen := some 0 }
  | .secM1 mm ss ff =>
      { Descriptor.absent with
        minute := some (bcd2bin mm), second := some (bcd2bin ss), sector := some (bcd2bin ff), mode := some 1,
        isFiller := some false, dataOff := some 16, dataLen := some 2048,
        csumOff := some 2064, csumLen := some 4, eccOff := some 2076, eccLen := some 276 }
  | .secM2F1 mm ss ff f c sm ci =>
      { mode2 mm ss ff f c sm ci with
        dataOff := some 24, dataLen := some 2048, csumOff := some 2072, csumLen := some 4,
        eccOff := some 2076, eccLen := some 276 }
  | .secM2F2 mm ss ff f c sm ci =>
      { mode2 mm ss ff f c sm ci with
        dataOff := some 24, dataLen := some 2324, csumOff := some 2348, csumLen := some 4 }
  | _ => Descriptor.absent
where
  /-- What the two forms of mode 2 share. -/
  mode2 (mm ss ff f c sm ci : Byte) : Descriptor :=
    { Descriptor.absent with
      minute := some (bcd2bin mm), second := some (bcd2bin ss), sector := some (bcd2bin ff), mode := some 2,
      isFiller := some (fillerOf 2 (some sm)), file := some f, channel := some (channelOf c), submode := some sm,
      codinginfo := some ci, eor := some (eorOf sm), typeVideo := some (videoOf sm), typeAudio := some (audioOf sm),
      typeData := some (dataOf sm), trigger := some (triggerOf sm), form := some (formOf sm),
      realtime := some (realtimeOf sm), eof := some (eofOf sm) }

/-- A class leaves STATUS OK and its descriptor, whatever the descriptor was before, and nothing else changes. -/
theorem exec_class {i : Instr} (hc : i.isClass = true) (s : State) :
    exec i s = .next { s with status := .ok, desc := classDescriptor i } := by
  cases i <;> first | rfl | cases hc

/-- What follows the decoder always answers a next state: the error entry, or the class's descriptor. -/
theorem runDecoded_cases {r : Except BlockError Instr} (hr : ∀ i, r = .ok i → i.isClass = true) (s : State) :
    (∃ e, r = .error e ∧ runDecoded r s = .next (raiseError e s)) ∨
    (∃ i, r = .ok i ∧ runDecoded r s = .next { s with status := .ok, desc := classDescriptor i }) := by
  cases r with
  | error e => exact .inl ⟨e, rfl, rfl⟩
  | ok i => exact .inr ⟨i, rfl, exec_class (hr i rfl) s⟩

/-- Everything `parse` can do. -/
theorem parse_cases (B : Block) (s : State) :
    (∃ e, decode B = .error e ∧ parse B s = .next (raiseError e s)) ∨
    (∃ i, decode B = .ok i ∧ parse B s = .next { s with status := .ok, desc := classDescriptor i }) :=
  runDecoded_cases (fun _ h => (decode_ok h).1) s

end Sys2Proof.Machine
end

