-- ==== Sys2Proof/Laws/PerInstr.lean ====
section
/-! SUPPORT. Facts about every instruction as syntax, one lemma per constructor. -/

namespace Sys2Proof.Laws.FieldOpsWellFormed

open Sys2Proof

/-- The field operations an instruction runs are well-formed field operations (R91). -/
def Statement (i : Instr) : Prop :=
  i.wellFormed = true → ∀ op ∈ fieldOps i, op.wellFormed = true ∧ op.isClass = false

theorem secM0 (mm ss ff : Byte) : Statement (.secM0 mm ss ff) := by
  intro _
  simp only [fieldOps, List.forall_mem_cons, List.not_mem_nil, false_implies, implies_true, and_true]
  simp only [Instr.wellFormed, Instr.isClass]
  decide

theorem secM1 (mm ss ff : Byte) : Statement (.secM1 mm ss ff) := by
  intro _
  simp only [fieldOps, List.forall_mem_cons, List.not_mem_nil, false_implies, implies_true, and_true]
  simp only [Instr.wellFormed, Instr.isClass]
  decide

theorem secM2F1 (mm ss ff f c sm ci : Byte) : Statement (.secM2F1 mm ss ff f c sm ci) := by
  intro _
  simp only [fieldOps, fieldOps.mode2Ops, List.forall_mem_cons, List.not_mem_nil, false_implies, implies_true, and_true]
  simp only [Instr.wellFormed, Instr.isClass]
  decide

theorem secM2F2 (mm ss ff f c sm ci : Byte) : Statement (.secM2F2 mm ss ff f c sm ci) := by
  intro _
  simp only [fieldOps, fieldOps.mode2Ops, List.forall_mem_cons, List.not_mem_nil, false_implies, implies_true, and_true]
  simp only [Instr.wellFormed, Instr.isClass]
  decide

theorem decMin (b : Byte) : Statement (.decMin b) := fun _ _ h => absurd h List.not_mem_nil

theorem decSec (b : Byte) : Statement (.decSec b) := fun _ _ h => absurd h List.not_mem_nil

theorem decSect (b : Byte) : Statement (.decSect b) := fun _ _ h => absurd h List.not_mem_nil

theorem extMode (b : Byte) : Statement (.extMode b) := fun _ _ h => absurd h List.not_mem_nil

theorem extFile (b : Byte) : Statement (.extFile b) := fun _ _ h => absurd h List.not_mem_nil

theorem extChan (b : Byte) : Statement (.extChan b) := fun _ _ h => absurd h List.not_mem_nil

theorem extSubmode (b : Byte) : Statement (.extSubmode b) := fun _ _ h => absurd h List.not_mem_nil

theorem extCi (b : Byte) : Statement (.extCi b) := fun _ _ h => absurd h List.not_mem_nil

theorem flgEor (b : Byte) : Statement (.flgEor b) := fun _ _ h => absurd h List.not_mem_nil

theorem flgVideo (b : Byte) : Statement (.flgVideo b) := fun _ _ h => absurd h List.not_mem_nil

theorem flgAudio (b : Byte) : Statement (.flgAudio b) := fun _ _ h => absurd h List.not_mem_nil

theorem flgData (b : Byte) : Statement (.flgData b) := fun _ _ h => absurd h List.not_mem_nil

theorem flgTrigger (b : Byte) : Statement (.flgTrigger b) := fun _ _ h => absurd h List.not_mem_nil

theorem flgForm (b : Byte) : Statement (.flgForm b) := fun _ _ h => absurd h List.not_mem_nil

theorem flgRealtime (b : Byte) : Statement (.flgRealtime b) := fun _ _ h => absurd h List.not_mem_nil

theorem flgEof (b : Byte) : Statement (.flgEof b) := fun _ _ h => absurd h List.not_mem_nil

theorem isFiller (m : Byte) (v : Option Byte) : Statement (.isFiller m v) := fun _ _ h => absurd h List.not_mem_nil

end Sys2Proof.Laws.FieldOpsWellFormed

namespace Sys2Proof.Laws.BlockLength

open Sys2Proof

/-- The block an instruction encodes to is 2352 bytes long (R80). -/
def Statement (i : Instr) : Prop := ∀ B, encode i = some B → B.length = blockLen

/-- A header of at most 2340 bytes fills up to one block. -/
theorem blockOf_length {h : List Byte} (hh : syncLen + h.length ≤ blockLen) : (blockOf h).length = blockLen := by
  unfold blockOf
  rw [List.length_append, List.length_append, List.length_replicate, sync_length]
  omega

theorem secM0 (mm ss ff : Byte) : Statement (.secM0 mm ss ff) := by
  intro B h
  cases h
  exact blockOf_length (Nat.le_of_ble_eq_true rfl)

theorem secM1 (mm ss ff : Byte) : Statement (.secM1 mm ss ff) := by
  intro B h
  cases h
  exact blockOf_length (Nat.le_of_ble_eq_true rfl)

theorem secM2F1 (mm ss ff f c sm ci : Byte) : Statement (.secM2F1 mm ss ff f c sm ci) := by
  intro B h
  cases h
  exact blockOf_length (Nat.le_of_ble_eq_true rfl)

theorem secM2F2 (mm ss ff f c sm ci : Byte) : Statement (.secM2F2 mm ss ff f c sm ci) := by
  intro B h
  cases h
  exact blockOf_length (Nat.le_of_ble_eq_true rfl)

theorem decMin (b : Byte) : Statement (.decMin b) := fun _ h => nomatch h

theorem decSec (b : Byte) : Statement (.decSec b) := fun _ h => nomatch h

theorem decSect (b : Byte) : Statement (.decSect b) := fun _ h => nomatch h

theorem extMode (b : Byte) : Statement (.extMode b) := fun _ h => nomatch h

theorem extFile (b : Byte) : Statement (.extFile b) := fun _ h => nomatch h

theorem extChan (b : Byte) : Statement (.extChan b) := fun _ h => nomatch h

theorem extSubmode (b : Byte) : Statement (.extSubmode b) := fun _ h => nomatch h

theorem extCi (b : Byte) : Statement (.extCi b) := fun _ h => nomatch h

theorem flgEor (b : Byte) : Statement (.flgEor b) := fun _ h => nomatch h

theorem flgVideo (b : Byte) : Statement (.flgVideo b) := fun _ h => nomatch h

theorem flgAudio (b : Byte) : Statement (.flgAudio b) := fun _ h => nomatch h

theorem flgData (b : Byte) : Statement (.flgData b) := fun _ h => nomatch h

theorem flgTrigger (b : Byte) : Statement (.flgTrigger b) := fun _ h => nomatch h

theorem flgForm (b : Byte) : Statement (.flgForm b) := fun _ h => nomatch h

theorem flgRealtime (b : Byte) : Statement (.flgRealtime b) := fun _ h => nomatch h

theorem flgEof (b : Byte) : Statement (.flgEof b) := fun _ h => nomatch h

theorem isFiller (m : Byte) (v : Option Byte) : Statement (.isFiller m v) := fun _ h => nomatch h

end Sys2Proof.Laws.BlockLength
end

