-- ==== Sys2Proof/Laws/Stream.lean ====
section
/-! SUPPORT. What the byte-serial operations and a step can do, said once. -/

namespace Sys2Proof.Machine

open Sys2Proof

/-- What is captured up to the byte at offset `i`, for the checks of COMMIT. -/
theorem decodeCaptured_ok {i : Nat} {ok : Bool} {h : Header} {ins : Instr}
    (hd : decodeCaptured i ok h = .ok ins) :
    i + 1 = blockLen ∧ ok = true ∧ selectClass h = .ok ins := by
  unfold decodeCaptured at hd
  split at hd
  · cases hd
  · split at hd
    · cases hd
    · exact ⟨not_not.mp ‹_›, eq_true_of_ne_false ‹_›, hd⟩

/-- Everything `commit` can do. -/
theorem commit_cases (i : Nat) (s : State) :
    (∃ e, decodeCaptured i s.syncOk s.cap = .error e ∧ commit i s = .next (raiseError e s)) ∨
    (∃ ins, decodeCaptured i s.syncOk s.cap = .ok ins ∧
      commit i s = .next { s with status := .ok, desc := classDescriptor ins }) :=
  runDecoded_cases (fun _ h => (selectClass_ok (decodeCaptured_ok h).2.2).1) s

/-- The state after parts 1 and 2 of ACCEPT. -/
def seen (d : Byte) (s : State) : State := capture s.cnt.toNat d (watchSync s.cnt.toNat d s)

/-- The offsets of R6 as numbers. -/
theorem offsets : offMin = 12 ∧ offSec = 13 ∧ offSect = 14 ∧ offMode = 15 ∧ offFile = 16 ∧ offChan = 17 ∧
    offSubmode = 18 ∧ offCi = 19 := ⟨rfl, rfl, rfl, rfl, rfl, rfl, rfl, rfl⟩

/-- The capture register of offset 12 (R30, R184). -/
theorem captureByte_hMin (i : Nat) (d : Byte) (h : Header) :
    (captureByte i d h).hMin = if i = 12 then d else h.hMin := by
  obtain ⟨_, _, _, _, _, _, _, _⟩ := offsets
  unfold captureByte
  split_ifs <;> first | rfl | omega

/-- The capture register of offset 13 (R30, R184). -/
theorem captureByte_hSec (i : Nat) (d : Byte) (h : Header) :
    (captureByte i d h).hSec = if i = 13 then d else h.hSec := by
  obtain ⟨_, _, _, _, _, _, _, _⟩ := offsets
  unfold captureByte
  split_ifs <;> first | rfl | omega

/-- The capture register of offset 14 (R30, R184). -/
theorem captureByte_hSect (i : Nat) (d : Byte) (h : Header) :
    (captureByte i d h).hSect = if i = 14 then d else h.hSect := by
  obtain ⟨_, _, _, _, _, _, _, _⟩ := offsets
  unfold captureByte
  split_ifs <;> first | rfl | omega

/-- The capture register of offset 15 (R30, R184). -/
theorem captureByte_hMode (i : Nat) (d : Byte) (h : Header) :
    (captureByte i d h).hMode = if i = 15 then d else h.hMode := by
  obtain ⟨_, _, _, _, _, _, _, _⟩ := offsets
  unfold captureByte
  split_ifs <;> first | rfl | omega

/-- The capture register of offset 16 (R30, R184). -/
theorem captureByte_sFile (i : Nat) (d : Byte) (h : Header) :
    (captureByte i d h).sFile = if i = 16 then d else h.sFile := by
  obtain ⟨_, _, _, _, _, _, _, _⟩ := offsets
  unfold captureByte
  split_ifs <;> first | rfl | omega

/-- The capture register of offset 17 (R30, R184). -/
theorem captureByte_sChan (i : Nat) (d : Byte) (h : Header) :
    (captureByte i d h).sChan = if i = 17 then d else h.sChan := by
  obtain ⟨_, _, _, _, _, _, _, _⟩ := offsets
  unfold captureByte
  split_ifs <;> first | rfl | omega

/-- The capture register of offset 18 (R30, R184). -/
theorem captureByte_sSubmode (i : Nat) (d : Byte) (h : Header) :
    (captureByte i d h).sSubmode = if i = 18 then d else h.sSubmode := by
  obtain ⟨_, _, _, _, _, _, _, _⟩ := offsets
  unfold captureByte
  split_ifs <;> first | rfl | omega

/-- The capture register of offset 19 (R30, R184). -/
theorem captureByte_sCi (i : Nat) (d : Byte) (h : Header) :
    (captureByte i d h).sCi = if i = 19 then d else h.sCi := by
  obtain ⟨_, _, _, _, _, _, _, _⟩ := offsets
  unfold captureByte
  split_ifs <;> first | rfl | omega

/-- Parts 1 and 2 of ACCEPT do nothing from offset 20 on (R184). -/
theorem seen_of_ge (d : Byte) (s : State) (h : 20 ≤ s.cnt.toNat) : seen d s = s := by
  have hc : captureByte s.cnt.toNat d s.cap = s.cap := by
    obtain ⟨_, _, _, _, _, _, _, _⟩ := offsets
    unfold captureByte
    split_ifs <;> first | rfl | omega
  have hw : ¬(s.cnt.toNat < syncLen ∧ sync[s.cnt.toNat]? ≠ some d) := fun hw => by
    have := hw.1
    unfold syncLen at this
    omega
  unfold seen watchSync capture
  rw [if_neg hw, hc]

/-- SYNC_OK after a byte (R29, R184). -/
theorem seen_syncOk (d : Byte) (s : State) :
    (seen d s).syncOk = (s.syncOk && !decide (s.cnt.toNat < syncLen ∧ sync[s.cnt.toNat]? ≠ some d)) :=
  watchSync_syncOk _ _ _

/-- The capture registers after a byte (R184). -/
theorem seen_cap (d : Byte) (s : State) : (seen d s).cap = captureByte s.cnt.toNat d s.cap := by
  show captureByte _ _ (watchSync _ _ _).cap = _
  rw [watchSync_cap]

/-- A byte that is not the last is watched, captured and counted (R184). -/
theorem accept_more (d : Byte) (s : State) : accept d false s = .next (countByte s.cnt.toNat (seen d s)) := rfl

/-- A last byte ends the block with the error entry or with a class (R184, R186). -/
theorem accept_last (d : Byte) (s : State) :
    (∃ e, decodeCaptured s.cnt.toNat (seen d s).syncOk (seen d s).cap = .error e ∧
      accept d true s = .next (endBlock (raiseError e (seen d s)))) ∨
    (∃ ins, decodeCaptured s.cnt.toNat (seen d s).syncOk (seen d s).cap = .ok ins ∧
      accept d true s = .next (endBlock { seen d s with status := .ok, desc := classDescriptor ins })) := by
  rcases commit_cases s.cnt.toNat (seen d s) with ⟨e, h, hc⟩ | ⟨ins, h, hc⟩
  · exact .inl ⟨e, h, by simp only [accept, if_true]; rw [show capture _ _ _ = seen d s from rfl, hc]⟩
  · exact .inr ⟨ins, h, by simp only [accept, if_true]; rw [show capture _ _ _ = seen d s from rfl, hc]⟩

/-- Everything a step can do: idle, a clock edge's three operations, a PARSE, a host's read. -/
theorem step_cases (s : State) :
    (s.inputs = [] ∧ step s = .next (idleOp s)) ∨
    (∃ v d l rest, s.inputs = .edge true v d l :: rest ∧ step s = .next (resetOp { s with inputs := rest })) ∨
    (∃ d l rest, s.inputs = .edge false false d l :: rest ∧ step s = .next (idleOp { s with inputs := rest })) ∨
    (∃ d l rest, s.inputs = .edge false true d l :: rest ∧ step s = accept d l { s with inputs := rest }) ∨
    (∃ B rest, s.inputs = .parse B :: rest ∧ step s = parse B { s with inputs := rest }) ∨
    (∃ p rest, s.inputs = .read p :: rest ∧ step s = hostRead p { s with inputs := rest }) := by
  unfold step
  cases h : s.inputs with
  | nil => exact .inl ⟨rfl, rfl⟩
  | cons x rest =>
    refine .inr ?_
    cases x with
    | edge rst v d l =>
      cases rst with
      | true => exact .inl ⟨v, d, l, rest, rfl, rfl⟩
      | false =>
        cases v with
        | false => exact .inr (.inl ⟨d, l, rest, rfl, rfl⟩)
        | true => exact .inr (.inr (.inl ⟨d, l, rest, rfl, rfl⟩))
    | parse B => exact .inr (.inr (.inr (.inl ⟨B, rest, rfl, rfl⟩)))
    | read p => exact .inr (.inr (.inr (.inr ⟨p, rest, rfl, rfl⟩)))

/-- A step for which nothing is presented is IDLE (log entry 2). -/
theorem step_of_nil {s : State} (h : s.inputs = []) : step s = .next (idleOp s) := by
  rw [step, h]

/-- A step of a PARSE is that PARSE, its input consumed. -/
theorem step_of_parse {s : State} {B : Block} {rest : List Input} (h : s.inputs = .parse B :: rest) :
    step s = parse B { s with inputs := rest } := by
  rw [step, h]
  rfl

/-- A host's read answers the state itself or a fault (R66, R236). -/
theorem hostRead_cases (p : OutPort) (s : State) :
    ((∃ v, portValue s p = some v) ∧ hostRead p s = .next s) ∨
    (portValue s p = none ∧ hostRead p s = .fault (.absentRegister p)) := by
  unfold hostRead
  cases h : portValue s p with
  | none => exact .inr ⟨rfl, rfl⟩
  | some v => exact .inl ⟨⟨v, rfl⟩, rfl⟩

/-- The counter's next value as a number (R184, R187). -/
theorem nextCnt_toNat (i : Nat) : (nextCnt i).toNat = min (i + 1) blockLen := by
  unfold nextCnt
  rw [BitVec.toNat_ofNat, Nat.mod_eq_of_lt]
  have : min (i + 1) blockLen ≤ blockLen := Nat.min_le_right _ _
  exact Nat.lt_of_le_of_lt this (by decide)

end Sys2Proof.Machine
end

