-- ==== Sys2Proof/Laws/Safety.lean ====
section
/-! SUPPORT. The claims' words in the model's terms: framed blocks, runs, the inputs that present a block. -/

namespace Sys2Proof.Machine

open Sys2Proof

/-- A framed block is one that passes the decoder's first two checks. -/
theorem framed_iff (B : Block) : Framed B ↔ B.length = blockLen ∧ B.take syncLen = sync := by
  constructor
  · rintro ⟨hl, hs⟩
    refine ⟨hl, List.ext_getElem? fun i => ?_⟩
    by_cases hi : i < 12
    · rw [List.getElem?_take_of_lt (show i < syncLen from hi), hs i hi]
      interval_cases i <;> rfl
    · have h1 : (B.take syncLen).length ≤ i := by rw [List.length_take, syncLen]; omega
      have h2 : sync.length ≤ i := by rw [sync_length, syncLen]; omega
      rw [List.getElem?_eq_none h1, List.getElem?_eq_none h2]
  · rintro ⟨hl, hs⟩
    refine ⟨hl, fun i hi => ?_⟩
    rw [← List.getElem?_take_of_lt (show i < syncLen from hi), hs]
    interval_cases i <;> rfl

/-- A run of no steps. -/
theorem run_zero (s : State) : core.run 0 s = .next s := rfl

/-- A run of any machine goes on from the state its first step answers. -/
theorem hostRun_succ_next {M : Host.Core} {s t : M.State} (h : M.step s = .next t) (k : Nat) :
    M.run (k + 1) s = M.run k t := by
  rw [Host.Core.run, h]

/-- A run of any machine splits where its first part answers a next state. -/
theorem hostRun_add {M : Host.Core} {s t : M.State} {j : Nat} (h : M.run j s = .next t) (k : Nat) :
    M.run (j + k) s = M.run k t := by
  induction j generalizing s with
  | zero => cases h; rw [Nat.zero_add]
  | succ j ih =>
    rw [Host.Core.run] at h
    cases hs : M.step s with
    | next u =>
      rw [hs] at h
      rw [Nat.add_right_comm, hostRun_succ_next hs]
      exact ih h
    | fault r => rw [hs] at h; cases h
    | refused r => rw [hs] at h; cases h

theorem run_succ_next {s t : State} (h : step s = .next t) (k : Nat) : core.run (k + 1) s = core.run k t :=
  hostRun_succ_next (M := core) h k

theorem run_add {s t : State} {j : Nat} (h : core.run j s = .next t) (k : Nat) :
    core.run (j + k) s = core.run k t :=
  hostRun_add (M := core) h k

/-- Every clock edge answers a next state (R184, R186). -/
theorem clockEdge_answers_next (rst v l : Bool) (d : Byte) (s : State) : ∃ t, clockEdge rst v d l s = .next t := by
  cases rst
  · cases v
    · exact ⟨_, rfl⟩
    · cases l
      · exact ⟨_, accept_more d s⟩
      · rcases accept_last d s with ⟨_, _, h⟩ | ⟨_, _, h⟩ <;> exact ⟨_, h⟩
  · exact ⟨_, rfl⟩

/-- The capture of one byte does what part 2 of ACCEPT says (R184). -/
theorem captures_captureByte (i : Nat) (d : Byte) (h : Header) : Captures i d h (captureByte i d h) :=
  ⟨captureByte_hMin i d h, captureByte_hSec i d h, captureByte_hSect i d h, captureByte_hMode i d h,
   captureByte_sFile i d h, captureByte_sChan i d h, captureByte_sSubmode i d h, captureByte_sCi i d h⟩

/-- An accepted byte is captured, whether or not it is the last (R184). -/
theorem captures_seen (d : Byte) (s : State) : Captures s.cnt.toNat d s.cap (seen d s).cap := by
  rw [seen_cap]
  exact captures_captureByte _ _ _

/-- A port with a value shows it. -/
theorem shows_of_value {s : State} {p : OutPort} {n : Nat} (h : portValue s p = some n) : Shows s p n :=
  ⟨h, by rw [portLevel, h, Option.getD_some]⟩

/-- A port without a value shows nothing. -/
theorem showsNothing_of_none {s : State} {p : OutPort} (h : portValue s p = none) : ShowsNothing s p :=
  ⟨h, by rw [portLevel, h, Option.getD_none]⟩

/-- A port whose value is a bit shows it. -/
theorem showsBit_of_value {s : State} {p : OutPort} {b : Bool} (h : portValue s p = some (bitNat b)) :
    ShowsBit s p (b = true) := by
  cases b with
  | false => exact ⟨fun hb => (nomatch hb), fun _ => shows_of_value h⟩
  | true => exact ⟨fun _ => shows_of_value h, fun hb => absurd rfl hb⟩

/-- A present register that holds a value is carried by its port. -/
theorem carries_of_present {w : Nat} {s : State} {p : OutPort} {b : Bool} {r : Option (BitVec w)}
    (hp : portValue s p = whenPresent b (r.map BitVec.toNat)) (hb : b = true) (hr : r.isSome = true) : Carries s p r := by
  obtain ⟨v, rfl⟩ := Option.isSome_iff_exists.mp hr
  exact ⟨v, rfl, shows_of_value (by rw [hp, hb]; rfl)⟩

/-- The same for a register of one bit. -/
theorem carriesBit_of_present {s : State} {p : OutPort} {b : Bool} {r : Option Bool}
    (hp : portValue s p = whenPresent b (r.map bitNat)) (hb : b = true) (hr : r.isSome = true) : CarriesBit s p r := by
  obtain ⟨v, rfl⟩ := Option.isSome_iff_exists.mp hr
  exact ⟨v, rfl, showsBit_of_value (by rw [hp, hb]; rfl)⟩

/-- The port of an absent register shows nothing. -/
theorem showsNothing_of_absent {s : State} {p : OutPort} {b : Bool} {r : Option Nat}
    (hp : portValue s p = whenPresent b r) (hb : b = false) : ShowsNothing s p :=
  showsNothing_of_none (by rw [hp, hb]; rfl)

end Sys2Proof.Machine
end

