-- ==== Sys2Proof/Tests/Slice0.lean ====
section
/-! SUPPORT. Tests of the model on small closed facts, each with the vector of spec/95_test_vectors.md or the rule it is
taken from, and one witness for the hypotheses of each statement of Certificates/Slice0. -/

namespace Sys2Proof.Tests

set_option Elab.async false

open Sys2Proof Sys2Proof.Machine

/-! ### Helpers -/

/-- The sync pattern written out (R5). -/
def syncBytes : List Byte := [0x00, 0xFF, 0xFF, 0xFF, 0xFF, 0xFF, 0xFF, 0xFF, 0xFF, 0xFF, 0xFF, 0x00]

/-- A block in the notation of R89: `block hdr=SYNC … fill=xx` with `n` bytes of fill after eight header bytes. -/
def hdr (h : List Byte) (fill : Byte) (n : Nat) : Block := syncBytes ++ h ++ List.replicate n fill

def blockK1 : Block := hdr [0x12, 0x34, 0x56, 0x00] 0x00 2336
def blockK2 : Block := hdr [0x00, 0x00, 0x00, 0x00, 0xFF, 0xFF, 0xFF, 0xFF] 0xFF 2332
def blockK3 : Block := hdr [0x00, 0x02, 0x00, 0x01] 0x00 2336
def blockK5 : Block := hdr [0x00, 0x02, 0x16, 0x02, 0x01, 0x1F, 0x02, 0x00] 0x00 2332
def blockK7 : Block := hdr [0x00, 0x02, 0x18, 0x02, 0x00, 0x00, 0x20, 0x00] 0x00 2332
def blockK8 : Block := hdr [0x27, 0x00, 0x99, 0x02, 0xFF, 0xE3, 0xFF, 0x7F] 0x00 2332
def blockE8 : Block := hdr [0x00, 0x02, 0x00, 0x03] 0x00 2336

/-- A field of the state an outcome goes on with. -/
def field {α : Type} (f : State → α) : Host.Outcome State Fault Refusal → Option α
  | .next t => some (f t)
  | .fault _ => none
  | .refused _ => none

/-- A field of the descriptor after an instruction, from reset. -/
def desc {α : Type} (i : Instr) (f : Descriptor → Option α) : Option (Option α) :=
  field (fun t => f t.desc) (exec i State.reset)

/-! ### WellFormed: an ill-formed term for each check -/

theorem test_form1_refuses_the_form2_bit : (Instr.secM2F1 0 0 0 0 0 0x20 0).wellFormed = false := by decide
theorem test_form2_needs_the_form2_bit : (Instr.secM2F2 0 0 0 0 0 0xDF 0).wellFormed = false := by decide
theorem test_filler_of_mode_three_refused : (Instr.isFiller 3 none).wellFormed = false := by decide
theorem test_filler_of_mode_two_needs_the_submode : (Instr.isFiller 2 none).wellFormed = false := by decide
theorem test_filler_of_mode_one_has_no_submode : (Instr.isFiller 1 (some 0x20)).wellFormed = false := by decide

/-! ### Decode: the classes and the field operations from written-out blocks (R83, R81; vectors K1, K3, K5, K8) -/

theorem test_decode_secM0 : decode blockK1 = .ok (.secM0 0x12 0x34 0x56) := by decide +kernel
theorem test_decode_secM0_ignores_the_rest : decode blockK2 = .ok (.secM0 0 0 0) := by decide +kernel
theorem test_decode_secM1 : decode blockK3 = .ok (.secM1 0x00 0x02 0x00) := by decide +kernel
theorem test_decode_secM2F1 : decode blockK5 = .ok (.secM2F1 0x00 0x02 0x16 0x01 0x1F 0x02 0x00) := by decide +kernel
theorem test_decode_secM2F2 : decode blockK8 = .ok (.secM2F2 0x27 0x00 0x99 0xFF 0xE3 0xFF 0x7F) := by decide +kernel

/-- The seventeen field operations that K8 runs, in the opcode table's order of rows. -/
theorem test_decode_fieldOps : (match decode blockK8 with | .ok i => fieldOps i | .error _ => []) =
    [.decMin 0x27, .decSec 0x00, .decSect 0x99, .extMode 0x02, .extFile 0xFF, .extChan 0xE3, .extSubmode 0xFF,
     .extCi 0x7F, .flgEor 0xFF, .flgVideo 0xFF, .flgAudio 0xFF, .flgData 0xFF, .flgTrigger 0xFF, .flgForm 0xFF,
     .flgRealtime 0xFF, .flgEof 0xFF, .isFiller 0x02 (some 0xFF)] := by decide +kernel

/-- Vectors E1, E5, E6, E8, E9: the errors and their priority. -/
theorem test_decode_one_byte_short : decode (hdr [0x00, 0x02, 0x00, 0x01] 0 2335) = .error .badLength := by
  decide +kernel
theorem test_decode_one_byte_long : decode (hdr [0x00, 0x02, 0x00, 0x01] 0 2337) = .error .badLength := by
  decide +kernel
theorem test_decode_one_wrong_sync_bit :
    decode ([0x00, 0xFF, 0xFF, 0xFF, 0xFF, 0xFF, 0x7F, 0xFF, 0xFF, 0xFF, 0xFF, 0x00, 0x00, 0x02, 0x00, 0x02] ++
      List.replicate 2336 0) = .error .badSync := by decide +kernel
theorem test_decode_bad_sync_before_bad_mode :
    decode ([0x01, 0xFF, 0xFF, 0xFF, 0xFF, 0xFF, 0xFF, 0xFF, 0xFF, 0xFF, 0xFF, 0x00, 0x00, 0x02, 0x00, 0x09] ++
      List.replicate 2336 0) = .error .badSync := by decide +kernel
theorem test_decode_mode_three : decode blockE8 = .error .unknownMode := by decide +kernel
theorem test_decode_whole_mode_byte : decode (hdr [0x00, 0x02, 0x00, 0x12] 0 2336) = .error .unknownMode := by
  decide +kernel

/-- The `match` numbers of the opcode table's class rows (spec/opcode_table.json). -/
theorem test_table_secM0 :
    decodeTableWord 192 0x00FFFFFFFFFFFFFFFFFFFF00000000000000000000000000 = some (.secM0 0 0 0) := by decide +kernel
theorem test_table_secM1 :
    decodeTableWord 192 0x00FFFFFFFFFFFFFFFFFFFF00000000010000000000000000 = some (.secM1 0 0 0) := by decide +kernel
theorem test_table_secM2F1 :
    decodeTableWord 192 0x00FFFFFFFFFFFFFFFFFFFF00000000020000000000000000 = some (.secM2F1 0 0 0 0 0 0 0) := by
  decide +kernel
theorem test_table_secM2F2 :
    decodeTableWord 192 0x00FFFFFFFFFFFFFFFFFFFF00000000020000200000000000 = some (.secM2F2 0 0 0 0 0 0x20 0) := by
  decide +kernel
/-- The same header with bit 0 in the first byte. -/
theorem test_table_lsb_first :
    decodeTableWord 192 0x000000000000000001000200_00FFFFFFFFFFFFFFFFFFFF00 = some (.secM1 0x00 0x02 0x00) := by
  decide +kernel

/-! ### The field operations (vectors of 2.1 to 2.3) -/

theorem test_decMin : desc (.decMin 0x27) (·.minute) = some (some 27) := by decide
theorem test_decMin_largest : desc (.decMin 0xFF) (·.minute) = some (some 165) := by decide
theorem test_decSec : desc (.decSec 0x59) (·.second) = some (some 59) := by decide
theorem test_decSec_bad_high_nibble : desc (.decSec 0xA0) (·.second) = some (some 100) := by decide
theorem test_decSect : desc (.decSect 0x74) (·.sector) = some (some 74) := by decide
theorem test_decSect_bad_low_nibble : desc (.decSect 0x1A) (·.sector) = some (some 20) := by decide
theorem test_extMode : desc (.extMode 0x02) (·.mode) = some (some 2) := by decide
theorem test_extMode_whole_byte : field State.outcome (exec (.extMode 0x04) State.reset) =
    some (.unknownMode, true, Descriptor.absent) := by decide
theorem test_extFile : desc (.extFile 0xFF) (·.file) = some (some 255) := by decide
theorem test_extChan_drops_high_bits : desc (.extChan 0xE3) (·.channel) = some (some 3) := by decide
theorem test_extChan_present_zero : desc (.extChan 0x20) (·.channel) = some (some 0) := by decide
theorem test_extSubmode : desc (.extSubmode 0xA0) (·.submode) = some (some 0xA0) := by decide
theorem test_extCi : desc (.extCi 0x7F) (·.codinginfo) = some (some 0x7F) := by decide
theorem test_flgEor : desc (.flgEor 0x01) (·.eor) = some (some true) := by decide
theorem test_flgEor_own_bit : desc (.flgEor 0xFE) (·.eor) = some (some false) := by decide
theorem test_flgVideo : desc (.flgVideo 0x02) (·.typeVideo) = some (some true) := by decide
theorem test_flgVideo_own_bit : desc (.flgVideo 0x64) (·.typeVideo) = some (some false) := by decide
theorem test_flgAudio : desc (.flgAudio 0x64) (·.typeAudio) = some (some true) := by decide
theorem test_flgAudio_own_bit : desc (.flgAudio 0x02) (·.typeAudio) = some (some false) := by decide
theorem test_flgData : desc (.flgData 0x08) (·.typeData) = some (some true) := by decide
theorem test_flgData_own_bit : desc (.flgData 0x64) (·.typeData) = some (some false) := by decide
theorem test_flgTrigger : desc (.flgTrigger 0x10) (·.trigger) = some (some true) := by decide
theorem test_flgTrigger_own_bit : desc (.flgTrigger 0x89) (·.trigger) = some (some false) := by decide
theorem test_flgForm_two : desc (.flgForm 0x20) (·.form) = some (some 2) := by decide
theorem test_flgForm_one : desc (.flgForm 0xDF) (·.form) = some (some 1) := by decide
theorem test_flgRealtime : desc (.flgRealtime 0x64) (·.realtime) = some (some true) := by decide
theorem test_flgRealtime_own_bit : desc (.flgRealtime 0xA0) (·.realtime) = some (some false) := by decide
theorem test_flgEof : desc (.flgEof 0x80) (·.eof) = some (some true) := by decide
theorem test_flgEof_own_bit : desc (.flgEof 0x7F) (·.eof) = some (some false) := by decide
theorem test_isFiller_exact : desc (.isFiller 2 (some 0x20)) (·.isFiller) = some (some true) := by decide
theorem test_isFiller_no_bit_test : desc (.isFiller 2 (some 0x60)) (·.isFiller) = some (some false) := by decide

/-! ### The classes and PARSE (vectors K1, K3, K5, K8, E8, program P3) -/

theorem test_secM0_is_filler : desc (.secM0 0x12 0x34 0x56) (·.isFiller) = some (some true) := by decide
theorem test_secM0_ranges : field (fun t => t.desc.ranges) (exec (.secM0 0x12 0x34 0x56) State.reset) =
    some [some 0, some 0, none, none, none, none] := by decide
theorem test_secM1_ranges : field (fun t => t.desc.ranges) (exec (.secM1 0 2 0) State.reset) =
    some [some 16, some 2048, some 2064, some 4, some 2076, some 276] := by decide
theorem test_secM1_clears_the_xa_group :
    (field id (exec (.secM2F2 0x27 0 0x99 0xFF 0xE3 0xFF 0x7F) State.reset)).bind
      (fun s => field (fun t => (t.desc.file, t.desc.form, t.desc.second)) (exec (.secM1 0 2 0) s)) =
    some (none, none, some 2) := by decide
theorem test_secM2F1_ranges : field (fun t => t.desc.ranges)
    (exec (.secM2F1 0 2 0x16 1 0x1F 2 0) State.reset) =
    some [some 24, some 2048, some 2072, some 4, some 2076, some 276] := by decide
theorem test_secM2F1_subheader : field (fun t => (t.desc.file, t.desc.channel, t.desc.typeVideo, t.desc.form))
    (exec (.secM2F1 0 2 0x16 1 0x1F 2 0) State.reset) = some (some 1, some 31, some true, some 1) := by decide
theorem test_secM2F2_clears_the_ecc_group :
    (field id (exec (.secM1 0 2 0) State.reset)).bind
      (fun s => field (fun t => t.desc.ranges) (exec (.secM2F2 0x27 0 0x99 0xFF 0xE3 0xFF 0x7F) s)) =
    some [some 24, some 2324, some 2348, some 4, none, none] := by decide
theorem test_secM2F2_filler : desc (.secM2F2 0 2 0x18 0 0 0x20 0) (·.isFiller) = some (some true) := by decide
theorem test_parse_error_then_good_keeps_sticky :
    (field id (parse blockE8 State.reset)).bind
      (fun s => field (fun t => (t.status, t.stickyErr, t.desc.mode)) (parse blockK3 s)) =
    some (.ok, true, some 1) := by decide +kernel
theorem test_step_runs_a_table_word :
    field (fun t => (t.status, t.desc.channel))
      (step (State.reset.withFetchWord 192 0x00FFFFFFFFFFFFFFFFFFFF0000021602011F020000000000)) =
    some (.ok, some 31) := by decide +kernel

/-! ### The byte-serial interface (vectors T2, T3, T8 to T11, program P5) -/

/-- One edge from a state, and what the next state shows. -/
def edge (s : State) (rst v : Bool) (d : Byte) (l : Bool) : Host.Outcome State Fault Refusal :=
  step { s with inputs := [.edge rst v d l] }

theorem test_accept_good_sync_byte : field (fun t => (t.cnt, t.syncOk)) (edge State.reset false true 0x00 false) =
    some (1, true) := by decide
theorem test_accept_bad_sync_byte : field (fun t => (t.cnt, t.syncOk)) (edge State.reset false true 0x01 false) =
    some (1, false) := by decide
theorem test_accept_captures_the_mode :
    field (fun t => (t.cnt, t.cap.hMode)) (edge { State.reset with cnt := 15 } false true 0x02 false) =
    some (16, 0x02) := by decide
theorem test_accept_captures_the_last_header_byte :
    field (fun t => (t.cnt, t.cap.sCi)) (edge { State.reset with cnt := 19 } false true 0xFF false) =
    some (20, 0xFF) := by decide
theorem test_last_byte_is_captured_too : field (·.cap.hMin) (edge { State.reset with cnt := 12 } false true 0x27 true) =
    some 0x27 := by decide
theorem test_cnt_saturates : field (·.cnt) (edge { State.reset with cnt := 2352 } false true 0 false) =
    some 2352 := by decide
theorem test_block_of_one_byte : field (fun t => (t.outcome, t.done, t.cnt)) (edge State.reset false true 0 true) =
    some ((.badLength, true, Descriptor.absent), true, 0) := by decide
theorem test_overlong_block : field (·.status) (edge { State.reset with cnt := 2352 } false true 0 true) =
    some .badLength := by decide
theorem test_commit_at_2351 : field (fun t => (t.status, t.desc.mode, t.cnt, t.syncOk, t.done))
    (edge { State.reset with cnt := 2351, cap := ⟨0, 2, 0, 1, 0, 0, 0, 0⟩ } false true 0 true) =
    some (.ok, some 1, 0, true, true) := by decide
theorem test_reset_wins : field (fun t => (t.cnt, t.syncOk))
    (edge { State.reset with cnt := 100, syncOk := false } true true 0xFF false) = some (0, true) := by decide
theorem test_idle_ignores_the_data : field (fun t => (t.done, t.cnt, t.cap.hMin))
    (edge { State.reset with cnt := 12, done := true } false false 0x27 true) = some (false, 12, 0) := by decide

/-! ### The ports (R24, R25, R236) -/

theorem test_absent_file_faults :
    (match step { State.reset with inputs := [.read .file] } with
      | .fault (.absentRegister p) => some p
      | .next _ => none
      | .refused _ => none) = some .file := by decide
theorem test_absent_file_drives_zero : portLevel State.reset .file = 0 := by decide
theorem test_minute_port_is_not_second : field (fun t => (portLevel t .minute, portLevel t .second))
    (exec (.secM0 0x12 0x34 0x56) State.reset) = some (12, 34) := by decide
theorem test_err_after_an_error : field (fun t => (portLevel t .err, portLevel t .status))
    (edge State.reset false true 0 true) = some (1, 2) := by decide

/-! ### Witnesses: the hypotheses of the statements can be met -/

theorem framed_of {B : Block} (hl : B.length = 2352)
    (hs : ∀ i, i < 12 → B[i]? = some (if i = 0 ∨ i = 11 then 0x00 else 0xFF)) : Framed B := ⟨hl, hs⟩

theorem framed_K1 : Framed blockK1 := framed_of (by decide +kernel) (by decide +kernel)
theorem framed_K3 : Framed blockK3 := framed_of (by decide +kernel) (by decide +kernel)
theorem framed_K5 : Framed blockK5 := framed_of (by decide +kernel) (by decide +kernel)
theorem framed_K7 : Framed blockK7 := framed_of (by decide +kernel) (by decide +kernel)
theorem framed_E8 : Framed blockE8 := framed_of (by decide +kernel) (by decide +kernel)

/-- The bytes of K1, K3, K5, K7 and E8 at offsets 15 and 18: modes 0, 1, 2 form 1, 2 form 2, and 3. -/
theorem bytes_15_18 :
    [blockK1, blockK3, blockK5, blockK7, blockE8].map (fun B => (B[15]?, B[18]?)) =
      [(some 0, some 0), (some 1, some 0), (some 2, some 2), (some 2, some 0x20), (some 3, some 0)] := by
  decide +kernel

theorem witness_DecodeUndoesEncode : (Instr.secM2F2 0xFF 0 0 0 0xFF 0x20 0).wellFormed = true ∧
    ∃ B, encode (.secM2F2 0xFF 0 0 0 0xFF 0x20 0) = some B := ⟨by decide, _, rfl⟩

theorem witness_DecodedBlockAgreesWithItsEncoding :
    (∃ i, decode blockK3 = .ok i) ∧ (∃ i, decode blockK5 = .ok i) ∧ blockK5[15]? = some 2 :=
  ⟨⟨_, test_decode_secM1⟩, ⟨_, test_decode_secM2F1⟩, by decide +kernel⟩

/-- One block for each of the five clauses, with its eight header bytes. -/
theorem witness_ModeAndFormSelectTheClass : Framed blockK1 ∧ Framed blockK3 ∧ Framed blockK5 ∧ Framed blockK7 ∧
    Framed blockE8 ∧ ([blockK1, blockK3, blockK5, blockK7, blockE8].map readHeader) =
      [some ⟨0x12, 0x34, 0x56, 0, 0, 0, 0, 0⟩, some ⟨0, 2, 0, 1, 0, 0, 0, 0⟩, some ⟨0, 2, 0x16, 2, 1, 0x1F, 2, 0⟩,
       some ⟨0, 2, 0x18, 2, 0, 0, 0x20, 0⟩, some ⟨0, 2, 0, 3, 0, 0, 0, 0⟩] :=
  ⟨framed_K1, framed_K3, framed_K5, framed_K7, framed_E8, by decide +kernel⟩

theorem witness_MaskedHeaderSelectsTheRow : blockK7.length = 2352 := framed_K7.length

theorem witness_BcdDecoderIsTensAndUnits : ((0x99 : Byte).extractLsb' 4 4).toNat ≤ 9 ∧
    ((0x99 : Byte).extractLsb' 0 4).toNat ≤ 9 := by decide

theorem witness_PackedDecimalDecodesInjectively : (0x99 : Byte).toNat / 16 ≤ 9 ∧ (0x99 : Byte).toNat % 16 ≤ 9 ∧
    bcd2bin 0x99 = bcd2bin 0x99 := by decide

theorem witness_TimecodeDecodersWriteTheirRegister :
    decode blockK3 = .ok (.secM1 0 2 0) ∧ decode blockE8 = .error .unknownMode :=
  ⟨test_decode_secM1, test_decode_mode_three⟩

theorem witness_ExtModeWritesOrRaises : (2 : Byte).toNat ≤ 2 ∧ 3 ≤ (3 : Byte).toNat ∧
    decode blockK3 = .ok (.secM1 0 2 0) ∧ Framed blockE8 ∧ blockE8[15]? = some 3 ∧ ¬ Framed syncBytes :=
  ⟨by decide, by decide, test_decode_secM1, framed_E8, by decide +kernel, fun h => absurd h.length (by decide)⟩

theorem witness_DecodeReportsTheFirstDefect : decode blockE8 = .error .unknownMode := test_decode_mode_three

/-- For ExtractorCopiesItsField, FlagDecodersReadTheirOwnBit and FillerIsAnExactComparison: a block of mode 2 and one of
another mode. -/
theorem witness_ExtractorCopiesItsField : decode blockK5 = .ok (.secM2F1 0 2 0x16 1 0x1F 2 0) ∧
    blockK5[15]? = some 2 ∧ decode blockK3 = .ok (.secM1 0 2 0) ∧ blockK3[15]? ≠ some 2 :=
  ⟨test_decode_secM2F1, by decide +kernel, test_decode_secM1, by decide +kernel⟩

theorem witness_FlagDecodersReadTheirOwnBit : decode blockK5 = .ok (.secM2F1 0 2 0x16 1 0x1F 2 0) ∧
    blockK5[15]? = some 2 ∧ blockK5[18]? = some 2 ∧ decode blockK1 = .ok (.secM0 0x12 0x34 0x56) ∧
    blockK1[15]? ≠ some 2 :=
  ⟨test_decode_secM2F1, by decide +kernel, by decide +kernel, test_decode_secM0, by decide +kernel⟩

theorem witness_FillerIsAnExactComparison : ∃ i, decode blockK7 = .ok i :=
  ⟨.secM2F2 0 2 0x18 0 0 0x20 0, by decide +kernel⟩

/-- For the second clause of each of the four class statements: a block of the class. -/
theorem witness_ModeZeroSector : Framed blockK1 ∧ blockK1[15]? = some 0 := ⟨framed_K1, by decide +kernel⟩
theorem witness_ModeOneSector : Framed blockK3 ∧ blockK3[15]? = some 1 := ⟨framed_K3, by decide +kernel⟩
theorem witness_ModeTwoFormOneSector : (0xDF : Byte) &&& 0x20 = 0 ∧ Framed blockK5 ∧ blockK5[15]? = some 2 ∧
    blockK5[18]? = some 2 ∧ (2 : Byte) &&& 0x20 = 0 :=
  ⟨by decide, framed_K5, by decide +kernel, by decide +kernel, by decide⟩
theorem witness_ModeTwoFormTwoSector : Framed blockK7 ∧ blockK7[15]? = some 2 ∧ blockK7[18]? = some 0x20 ∧
    (0x20 : Byte) &&& 0x20 ≠ 0 := ⟨framed_K7, by decide +kernel, by decide +kernel, by decide⟩

/-- One block for each clause: a wrong length, a bad sync, an unknown mode, a mode 2. -/
theorem witness_ParseRunsTheClassOrRaises : (syncBytes : Block).length ≠ 2352 ∧
    ((List.replicate 2352 0 : Block).length = 2352 ∧ ¬ Framed (List.replicate 2352 0)) ∧
    (Framed blockE8 ∧ blockE8[15]? = some 3 ∧ 3 ≤ (3 : Byte).toNat) ∧
    (Framed blockK5 ∧ blockK5[15]? = some 2 ∧ (2 : Byte).toNat ≤ 2) :=
  ⟨by decide, ⟨by decide +kernel, fun h => absurd (h.sync 1 (by decide)) (by decide +kernel)⟩,
   ⟨framed_E8, by decide +kernel, by decide⟩, ⟨framed_K5, by decide +kernel, by decide⟩⟩

/-- A state for each clause of the byte-serial part: CNT not 2351; CNT 2351 with a bad sync; CNT 2351 with mode 3. -/
theorem witness_ErrorEntry : decode blockE8 = .error .unknownMode ∧ State.reset.cnt.toNat ≠ 2351 ∧
    ({ State.reset with cnt := 2351, syncOk := false } : State).cnt.toNat = 2351 ∧
    3 ≤ ({ State.reset with cnt := 2351, cap := ⟨0, 0, 0, 3, 0, 0, 0, 0⟩ } : State).cap.hMode.toNat :=
  ⟨test_decode_mode_three, by decide, by decide, by decide⟩

/-- Two different blocks with one header. -/
theorem witness_UnreadBytesPlayNoPart :
    let C : Block := hdr [0x00, 0x02, 0x16, 0x02, 0x01, 0x1F, 0x02, 0x00] 0xAA 2332
    blockK5 ≠ C ∧ blockK5.length = C.length ∧ blockK5.take 16 = C.take 16 ∧ blockK5.take 20 = C.take 20 := by
  decide +kernel

theorem witness_ClassRunsItsFieldOperations : (Instr.secM2F1 0 2 0x16 1 0x1F 2 0).isClass = true ∧
    (Instr.secM2F1 0 2 0x16 1 0x1F 2 0).wellFormed = true := by decide

theorem witness_FieldOperationOrderUnobservable : decode blockK5 = .ok (.secM2F1 0 2 0x16 1 0x1F 2 0) ∧
    ((fieldOps (.secM2F1 0 2 0x16 1 0x1F 2 0)).reverse).Perm (fieldOps (.secM2F1 0 2 0x16 1 0x1F 2 0)) :=
  ⟨test_decode_secM2F1, List.reverse_perm _⟩

/-- A block for each class, for RangesDependOnTheClassAlone, SlicesAreTheBlocksOwnBytes and PresenceFollowsTheClass. -/
theorem witness_RangesDependOnTheClassAlone : Framed blockK1 ∧ Framed blockK3 ∧ Framed blockK5 ∧ Framed blockK7 ∧
    [blockK1, blockK3, blockK5, blockK7].map (fun B => (B[15]?, B[18]?)) =
      [(some 0, some 0), (some 1, some 0), (some 2, some 2), (some 2, some 0x20)] :=
  ⟨framed_K1, framed_K3, framed_K5, framed_K7, by decide +kernel⟩

theorem witness_SlicesAreTheBlocksOwnBytes : Framed blockK7 ∧ blockK7[15]? = some 2 ∧ blockK7[18]? = some 0x20 :=
  ⟨framed_K7, by decide +kernel, by decide +kernel⟩

theorem witness_PresenceFollowsTheClass : decode blockE8 = .error .unknownMode ∧ Framed blockK7 ∧
    blockK7[15]? = some 2 ∧ blockK7[18]? = some 0x20 :=
  ⟨test_decode_mode_three, framed_K7, by decide +kernel, by decide +kernel⟩

theorem witness_FlagsRebuildTheSubmode : Framed blockK5 ∧ blockK5[15]? = some 2 ∧ blockK5[18]? = some 2 :=
  ⟨framed_K5, by decide +kernel, by decide +kernel⟩

theorem witness_IdleEdgesChangeNoResult : [((0xFF : Byte), true)] ≠ [] := by decide

/-- A block of two bytes with idle steps before and between them. -/
theorem presents_two_bytes : Presents
    [.edge false false 0xAA true, .edge false true 0x00 false, .edge false false 0 false, .edge false true 0xFF true]
    [0x00, 0xFF] where
  no_reset := by decide
  bytes := by decide
  ends_accepting := by decide

theorem witness_ResetDiscardsThePartialBlock : ([0x00, 0xFF] : Block) ≠ [] ∧
    Presents [.edge false false 0xAA true, .edge false true 0x00 false, .edge false false 0 false,
      .edge false true 0xFF true] [0x00, 0xFF] := ⟨by decide, presents_two_bytes⟩

theorem witness_SerialEqualsParse : State.reset.cnt = 0 ∧ State.reset.syncOk = true ∧ ([0x00, 0xFF] : Block) ≠ [] ∧
    Presents [.edge false false 0xAA true, .edge false true 0x00 false, .edge false false 0 false,
      .edge false true 0xFF true] [0x00, 0xFF] := ⟨rfl, rfl, by decide, presents_two_bytes⟩

theorem presents_one_byte : Presents [.edge false true 0x07 true] [0x07] where
  no_reset := by decide
  bytes := by decide
  ends_accepting := by decide

theorem witness_SerialProgramEqualsParses : (∀ B ∈ [([0x07] : Block), [0x07]], B ≠ []) ∧
    List.Forall₂ Presents [[.edge false true 0x07 true], [.edge false true 0x07 true]] [[0x07], [0x07]] :=
  ⟨by decide, .cons presents_one_byte (.cons presents_one_byte .nil)⟩

theorem witness_CaptureRegistersLeakNothing : State.reset.cnt = 0 ∧
    ∀ x ∈ [Input.edge false true 0 false, .edge true false 0 false, .edge false true 0 true], x.isEdge = true := by
  decide

/-- A RESET, and a COMMIT that raises an error: the two alternatives of StickyErrorIsClearedByResetAlone; the second also
changes the outcome, for ResultIsStableBetweenBlocks. -/
theorem witness_StickyErrorIsClearedByResetAlone :
    (∃ t, edge State.reset true false 0 false = .next t) ∧
    ∃ t, edge State.reset false true 0 true = .next t ∧ t.stickyErr = true := ⟨⟨_, rfl⟩, _, rfl, rfl⟩

theorem witness_ResultIsStableBetweenBlocks :
    ∃ t, edge State.reset false true 0 true = .next t ∧ t.outcome ≠ State.reset.outcome := ⟨_, rfl, by decide⟩

/-- The state of vector K3 after its PARSE. -/
def afterK3 : State :=
  { State.reset with
    status := .ok
    desc := { Descriptor.absent with
      minute := some 0, second := some 2, sector := some 0, mode := some 1, isFiller := some false,
      dataOff := some 16, dataLen := some 2048, csumOff := some 2064, csumLen := some 4,
      eccOff := some 2076, eccLen := some 276 } }

theorem inv_afterK3 : afterK3.Inv where
  cnt_le := by decide
  sync_at_start := by decide
  done_means_result := by decide
  error_is_sticky := by decide
  hdr_group := by decide
  xa_group := by decide
  csum_group := by decide
  ecc_group := by decide
  minute_le := fun _ h => by cases h; decide
  second_le := fun _ h => by cases h; decide
  sector_le := fun _ h => by cases h; decide
  mode_le := fun _ h => by cases h; decide
  form_legal := fun _ h => nomatch h
  ranges_by_class := fun _ h => by cases h; decide
  flags_rebuild := fun _ h => nomatch h
  filler_iff := fun _ h => by cases h; decide

/-- The invariant does not look at the inputs to come. -/
theorem inv_inputs {s : State} (h : s.Inv) (xs : List Input) : ({ s with inputs := xs } : State).Inv :=
  ⟨h.cnt_le, h.sync_at_start, h.done_means_result, h.error_is_sticky, h.hdr_group, h.xa_group, h.csum_group, h.ecc_group,
   h.minute_le, h.second_le, h.sector_le, h.mode_le, h.form_legal, h.ranges_by_class, h.flags_rebuild, h.filler_iff⟩

/-- A state with a present and an absent group: `data_off` can be used, `file` cannot. -/
theorem witness_AbsentRegistersFaultTheHost :
    ({ afterK3 with inputs := [.read .dataOff] } : State).Inv ∧ hdrPresent afterK3 = true ∧
    ({ afterK3 with inputs := [.read .file] } : State).Inv ∧ xaPresent afterK3 = false :=
  ⟨inv_inputs inv_afterK3 _, by decide, inv_inputs inv_afterK3 _, by decide⟩

theorem witness_EveryStepKeepsTheInvariant : afterK3.Inv ∧ ∃ t, step afterK3 = .next t := ⟨inv_afterK3, _, rfl⟩

/-- The state of vector K5 after its PARSE: the XA group is present. -/
def afterK5 : State :=
  { State.reset with
    status := .ok
    desc :=
      { minute := some 0, second := some 2, sector := some 16, mode := some 2, isFiller := some false
        dataOff := some 24, dataLen := some 2048, csumOff := some 2072, csumLen := some 4
        eccOff := some 2076, eccLen := some 276
        file := some 1, channel := some 31, submode := some 2, codinginfo := some 0
        eor := some false, typeVideo := some true, typeAudio := some false, typeData := some false
        trigger := some false, form := some 1, realtime := some false, eof := some false } }

theorem inv_afterK5 : afterK5.Inv where
  cnt_le := by decide
  sync_at_start := by decide
  done_means_result := by decide
  error_is_sticky := by decide
  hdr_group := by decide
  xa_group := by decide
  csum_group := by decide
  ecc_group := by decide
  minute_le := fun _ h => by cases h; decide
  second_le := fun _ h => by cases h; decide
  sector_le := fun _ h => by cases h; decide
  mode_le := fun _ h => by cases h; decide
  form_legal := fun _ h => by cases h; decide
  ranges_by_class := fun _ h => by cases h; decide
  flags_rebuild := fun _ h => by cases h; decide
  filler_iff := fun _ h => by cases h; decide

theorem inv_reset : State.reset.Inv where
  cnt_le := by decide
  sync_at_start := by decide
  done_means_result := by decide
  error_is_sticky := by decide
  hdr_group := by decide
  xa_group := by decide
  csum_group := by decide
  ecc_group := by decide
  minute_le := fun _ h => nomatch h
  second_le := fun _ h => nomatch h
  sector_le := fun _ h => nomatch h
  mode_le := fun _ h => nomatch h
  form_legal := fun _ h => nomatch h
  ranges_by_class := fun _ h => nomatch h
  flags_rebuild := fun _ h => nomatch h
  filler_iff := fun _ h => nomatch h

/-- For each group a state of the invariant in which it is present and one in which it is absent. -/
theorem witness_PortsCarryTheirRegisters : afterK5.Inv ∧ hdrPresent afterK5 = true ∧ csumPresent afterK5 = true ∧
    eccPresent afterK5 = true ∧ xaPresent afterK5 = true ∧ State.reset.Inv ∧ hdrPresent State.reset = false ∧
    csumPresent State.reset = false ∧ eccPresent State.reset = false ∧ xaPresent State.reset = false :=
  ⟨inv_afterK5, by decide, by decide, by decide, by decide, inv_reset, by decide, by decide, by decide, by decide⟩

theorem witness_NothingPresentedIsIdle : ({ State.reset with done := true } : State).inputs = [] := rfl

/-- The clauses: a PARSE of a block that is refused (E8), a PARSE of K3, its last byte, and the table's word for SEC.M1. -/
theorem witness_StepRunsTheDecodedInstruction : decode blockE8 = .error .unknownMode ∧
    ({ State.reset with inputs := [.parse blockE8] } : State).inputs = .parse blockE8 :: [] ∧ decode blockK3 = .ok (.secM1 0 2 0) ∧
    ({ State.reset with inputs := [.parse blockK3] } : State).inputs = .parse blockK3 :: [] ∧
    readHeader blockK3 = some ({ State.reset with cnt := 2351, cap := ⟨0, 2, 0, 1, 0, 0, 0, 0⟩ } : State).cap ∧
    decodeTableWord 192 0x00FFFFFFFFFFFFFFFFFFFF00000000010000000000000000 = some (.secM1 0 0 0) :=
  ⟨test_decode_mode_three, rfl, test_decode_secM1, rfl, by decide +kernel, test_table_secM1⟩

/-- A mode 2 block's header captured at CNT 2351, for the last clause of CommitChecksInOrder. -/
theorem witness_CommitChecksInOrder :
    ({ State.reset with cnt := 2351, cap := ⟨0, 2, 0x16, 2, 1, 0x1F, 2, 0⟩ } : State).cnt.toNat = 2351 ∧
    (2 : Byte).toNat ≤ 2 ∧ Framed blockK5 ∧ readHeader blockK5 = some ⟨0, 2, 0x16, 2, 1, 0x1F, 2, 0⟩ :=
  ⟨by decide, by decide, framed_K5, by decide +kernel⟩

end Sys2Proof.Tests
end

section
/-! PROOFS. The status registers of spec/10_state.md: when DONE is 1 (R27) and when STICKY_ERR changes (R26). -/

namespace Sys2Proof.Machine

open Sys2Proof

@[simp] theorem isError_errorStatus (e : BlockError) : isError (errorStatus e) = true := by
  cases e <;> rfl

@[simp] theorem seen_stickyErr (d : Byte) (s : State) : (seen d s).stickyErr = s.stickyErr :=
  watchSync_stickyErr _ _ _

/-- A clock edge is chosen by its port levels, its input consumed (R181). -/
theorem step_of_edge {s : State} {rst v : Bool} {d : Byte} {l : Bool} {rest : List Input}
    (h : s.inputs = .edge rst v d l :: rest) : step s = clockEdge rst v d l { s with inputs := rest } := by
  rw [step, h]
  rfl

/-- ACCEPT always answers, and leaves DONE at `in_last` (R27, R184). -/
theorem accept_done (d : Byte) (l : Bool) (s : State) : ∃ t, accept d l s = .next t ∧ t.done = l := by
  cases l with
  | false => exact ⟨_, accept_more d s, countByte_done _ _⟩
  | true =>
    rcases accept_last d s with ⟨e, _, h⟩ | ⟨i, _, h⟩
    · exact ⟨_, h, endBlock_done _⟩
    · exact ⟨_, h, endBlock_done _⟩

/-- A clock edge always answers, with DONE 1 exactly after an accepted last byte (R27, R181). -/
theorem clockEdge_done (rst v : Bool) (d : Byte) (l : Bool) (s : State) :
    ∃ t, clockEdge rst v d l s = .next t ∧ (t.done = true ↔ rst = false ∧ v = true ∧ l = true) := by
  cases rst with
  | true => exact ⟨resetOp s, rfl, by simp⟩
  | false =>
    cases v with
    | false => exact ⟨idleOp s, rfl, by simp⟩
    | true =>
      obtain ⟨t, ht, hdone⟩ := accept_done d l s
      exact ⟨t, ht, by simp [hdone]⟩

/-- A PARSE sets STICKY_ERR when it ends in an error and keeps it otherwise (R26). -/
theorem parse_stickyErr_iff {B : Block} {s t : State} (ht : parse B s = .next t) :
    t.stickyErr = true ↔ s.stickyErr = true ∨ isError t.status = true := by
  rcases parse_cases B s with ⟨e, _, h⟩ | ⟨i, _, h⟩
  · cases h.symm.trans ht
    simp
  · cases h.symm.trans ht
    simp [isError]

/-- A last byte's COMMIT sets STICKY_ERR when it ends in an error and keeps it otherwise (R26, R186). -/
theorem accept_last_stickyErr_iff {d : Byte} {s t : State} (ht : accept d true s = .next t) :
    t.stickyErr = true ↔ s.stickyErr = true ∨ isError t.status = true := by
  rcases accept_last d s with ⟨e, _, h⟩ | ⟨i, _, h⟩
  · cases h.symm.trans ht
    simp
  · cases h.symm.trans ht
    simp [isError]

/-- A byte that is not the last keeps STICKY_ERR (R184). -/
theorem accept_more_stickyErr {d : Byte} {s t : State} (ht : accept d false s = .next t) :
    t.stickyErr = s.stickyErr := by
  cases (accept_more d s).symm.trans ht
  simp

/-- A host's read keeps STICKY_ERR (R66). -/
theorem hostRead_stickyErr {p : OutPort} {s t : State} (ht : hostRead p s = .next t) :
    t.stickyErr = s.stickyErr := by
  rcases hostRead_cases p s with ⟨_, h⟩ | ⟨_, h⟩
  · cases h.symm.trans ht
    rfl
  · cases h.symm.trans ht

/-- The result of a PARSE is the block's alone (R33). -/
theorem parse_result_eq (B : Block) (s s' : State) :
    ∃ t u, parse B s = .next t ∧ parse B s' = .next u ∧ t.result = u.result := by
  unfold parse
  cases h : decode B with
  | error e => exact ⟨_, _, rfl, rfl, rfl⟩
  | ok i => exact ⟨_, _, exec_class (decode_ok h).1 s, exec_class (decode_ok h).1 s', rfl⟩

/-- R26 for one step: what a RESET does to STICKY_ERR, and what every other step does. -/
theorem step_stickyErr {s t : State} (ht : step s = .next t) :
    (∃ v d l rest, s.inputs = .edge true v d l :: rest ∧ t.stickyErr = false) ∨
    ((∀ v d l rest, s.inputs ≠ .edge true v d l :: rest) ∧
      (t.stickyErr = true ↔ s.stickyErr = true ∨
        (isError t.status = true ∧
          ((∃ B rest, s.inputs = .parse B :: rest) ∨ ∃ d rest, s.inputs = .edge false true d true :: rest)))) := by
  rcases step_cases s with ⟨hin, h⟩ | ⟨v, d, l, rest, hin, h⟩ | ⟨d, l, rest, hin, h⟩ | ⟨d, l, rest, hin, h⟩ |
    ⟨B, rest, hin, h⟩ | ⟨p, rest, hin, h⟩
  -- nothing presented
  · cases h.symm.trans ht
    exact .inr (by simp [hin])
  -- RESET
  · cases h.symm.trans ht
    exact .inl ⟨v, d, l, rest, hin, rfl⟩
  -- IDLE
  · cases h.symm.trans ht
    exact .inr (by simp [hin])
  -- ACCEPT
  · cases l with
    | false =>
      have hs := accept_more_stickyErr (h.symm.trans ht)
      exact .inr (by simp [hin, hs])
    | true =>
      have hs := accept_last_stickyErr_iff (h.symm.trans ht)
      exact .inr (by simp [hin, hs])
  -- PARSE
  · have hs := parse_stickyErr_iff (h.symm.trans ht)
    exact .inr (by simp [hin, hs])
  -- a host's read
  · have hs := hostRead_stickyErr (h.symm.trans ht)
    exact .inr (by simp [hin, hs])

/-- Settles O35: RESET, IDLE and a byte that is not the last clear DONE, and a last byte ends in `endBlock`. -/
theorem doneMarksTheCommit : Obligations.DoneMarksTheCommit := by
  intro s rst v l d rest
  rw [step_of_edge (s := { s with inputs := .edge rst v d l :: rest }) rfl]
  exact clockEdge_done rst v d l _

/-- Settles O36, by the cases of a step; a PARSE's result comes from its block alone. -/
theorem stickyErrorIsClearedByResetAlone : Obligations.StickyErrorIsClearedByResetAlone :=
  ⟨fun _ _ => step_stickyErr, fun B s b => parse_result_eq B s { s with stickyErr := b }⟩

end Sys2Proof.Machine
end

section
/-! PROOFS. The illegal encodings of spec/30_encoding.md (R86) and the priority among their errors (R205). -/

namespace Sys2Proof.Machine

open Sys2Proof

/-- The class selection accepts the modes 0 to 2 and refuses every other one (R83, R203). -/
theorem selectClass_by_mode (h : Header) :
    (h.hMode.toNat ≤ 2 ∧ ∃ i, selectClass h = .ok i) ∨
    (3 ≤ h.hMode.toNat ∧ selectClass h = .error .unknownMode) := by
  rcases selectClass_cases h with ⟨hm, e⟩ | ⟨hm, e⟩ | ⟨hm, _, e⟩ | ⟨hm, _, e⟩ | ⟨h0, h1, h2, e⟩
  · exact .inl ⟨by simp [hm], _, e⟩
  · exact .inl ⟨by simp [hm], _, e⟩
  · exact .inl ⟨by simp [hm], _, e⟩
  · exact .inl ⟨by simp [hm], _, e⟩
  · exact .inr ⟨by bv_omega, e⟩

/-- The decoder's answer by the block's first defect, in the priority of R205. The cases exclude one another. -/
theorem decode_by_defect (B : Block) :
    (B.length ≠ 2352 ∧ decode B = .error .badLength) ∨
    (B.length = 2352 ∧ ¬ Framed B ∧ decode B = .error .badSync) ∨
    (Framed B ∧ (∃ m, B[15]? = some m ∧ 3 ≤ m.toNat) ∧ decode B = .error .unknownMode) ∨
    (Framed B ∧ (∃ m, B[15]? = some m ∧ m.toNat ≤ 2) ∧ ∃ i, decode B = .ok i) := by
  rcases decode_cases B with ⟨hl, e⟩ | ⟨hl, hs, e⟩ | ⟨hl, hs, h, hh, e⟩
  · exact .inl ⟨hl, e⟩
  · exact .inr (.inl ⟨hl, fun hf => hs ((framed_iff B).1 hf).2, e⟩)
  · have hf : Framed B := (framed_iff B).2 ⟨hl, hs⟩
    obtain ⟨_, _, _, h15, _⟩ := readHeader_eq_some hh
    rcases selectClass_by_mode h with ⟨hm, i, ei⟩ | ⟨hm, ee⟩
    · exact .inr (.inr (.inr ⟨hf, ⟨_, h15, hm⟩, i, e.trans ei⟩))
    · exact .inr (.inr (.inl ⟨hf, ⟨_, h15, hm⟩, e.trans ee⟩))

/-- A PARSE of a refused block is the error entry (R206). -/
theorem parse_of_error {B : Block} {e : BlockError} (h : decode B = .error e) (s : State) :
    parse B s = .next (raiseError e s) := by
  rw [parse, h]
  rfl

/-- Settles O5: the four cases of `decode_by_defect` exclude one another, so each answer tells its case. -/
theorem decodeReportsTheFirstDefect : Obligations.DecodeReportsTheFirstDefect := by
  intro B
  have refused_leaves_nothing : ∀ (e : BlockError) (s : State), decode B = .error e →
      ∃ t, parse B s = .next t ∧ t.desc = Descriptor.absent :=
    fun e s h => ⟨_, parse_of_error h s, raiseError_desc e s⟩
  rcases decode_by_defect B with ⟨hl, e⟩ | ⟨hl, hf, e⟩ | ⟨hf, ⟨m, h15, hm⟩, e⟩ | ⟨hf, ⟨m, h15, hm⟩, i, e⟩
  · have hf : ¬ Framed B := fun hf => hl hf.length
    exact ⟨by simp [e, hl], by simp [e, hl], by simp [e, hf], by simp [e, hf], refused_leaves_nothing⟩
  · exact ⟨by simp [e, hl], by simp [e, hl, hf], by simp [e, hf], by simp [e, hf], refused_leaves_nothing⟩
  · have hm' : ¬ m.toNat ≤ 2 := by omega
    exact ⟨by simp [e, hf.length], by simp [e, hf], by simp [e, hf, h15, hm], by simp [e, h15, hm'],
      refused_leaves_nothing⟩
  · have hm' : ¬ 3 ≤ m.toNat := by omega
    exact ⟨by simp [e, hf.length], by simp [e, hf], by simp [e, h15, hm'], by simp [e, hf, h15, hm],
      refused_leaves_nothing⟩

end Sys2Proof.Machine
end

section
/-! PROOFS. The BCD decoder of spec/40_bcd_decoder.md: its value for all 256 bytes (R110). -/

namespace Sys2Proof.Machine

open Sys2Proof

/-- The decoder's value by the two nibbles, as R110 writes it. -/
theorem bcd2bin_toNat_nibbles (b : Byte) :
    (bcd2bin b).toNat = 10 * (b.extractLsb' 4 4).toNat + (b.extractLsb' 0 4).toNat := by
  obtain ⟨high, low⟩ := nibbles_toNat b
  rw [bcd2bin_toNat, high, low]

/-- Settles O7: for two decimal digits the value is at most `10 * 9 + 9`. -/
theorem bcdDecoderIsTensAndUnits : Obligations.BcdDecoderIsTensAndUnits := by
  intro b
  have value := bcd2bin_toNat_nibbles b
  refine ⟨value, bcd2bin_le b, fun tens units => ?_⟩
  omega

end Sys2Proof.Machine
end

section
/-! PROOFS. The ranges of spec/43_sector_classes.md: the slices they select in the block the host holds (R164). -/

namespace Sys2Proof.Machine

open Sys2Proof

/-- The mask of the function bit `form2` (R83) tests bit 5. -/
theorem and_form2Mask_eq_zero_iff (sm : Byte) : sm &&& 0x20 = 0 ↔ sm.getLsbD 5 = false := by
  rw [show (0x20 : Byte) = BitVec.twoPow 8 5 from rfl, BitVec.and_twoPow]
  cases sm.getLsbD 5 <;> decide

/-- A framed block of a known mode decodes to the class that its bytes 15 and 18 select (R83). -/
theorem decode_of_framed {B : Block} {m sm : Byte} (hf : Framed B) (h15 : B[15]? = some m) (hm : m.toNat ≤ 2)
    (h18 : B[18]? = some sm) :
    (m = 0 ∧ ∃ mm ss ff, decode B = .ok (.secM0 mm ss ff)) ∨
    (m = 1 ∧ ∃ mm ss ff, decode B = .ok (.secM1 mm ss ff)) ∨
    (m = 2 ∧ sm &&& 0x20 = 0 ∧ ∃ mm ss ff f c ci, decode B = .ok (.secM2F1 mm ss ff f c sm ci)) ∨
    (m = 2 ∧ sm &&& 0x20 ≠ 0 ∧ ∃ mm ss ff f c ci, decode B = .ok (.secM2F2 mm ss ff f c sm ci)) := by
  obtain ⟨hlen, hsync⟩ := (framed_iff B).1 hf
  obtain ⟨h, hh, hd⟩ := decode_of_sync hlen hsync
  obtain ⟨-, -, -, hMode, -, -, hSubmode, -⟩ := readHeader_eq_some hh
  obtain rfl : m = h.hMode := Option.some.inj (h15.symm.trans hMode)
  obtain rfl : sm = h.sSubmode := Option.some.inj (h18.symm.trans hSubmode)
  rcases selectClass_cases h with ⟨h0, e⟩ | ⟨h1, e⟩ | ⟨h2, hb, e⟩ | ⟨h2, hb, e⟩ | ⟨h0, h1, h2, e⟩
  · exact .inl ⟨h0, _, _, _, hd.trans e⟩
  · exact .inr (.inl ⟨h1, _, _, _, hd.trans e⟩)
  · exact .inr (.inr (.inl ⟨h2, (and_form2Mask_eq_zero_iff _).2 hb, _, _, _, _, _, _, hd.trans e⟩))
  · have hmask : h.sSubmode &&& 0x20 ≠ 0 := by
      rw [Ne, and_form2Mask_eq_zero_iff, hb]
      decide
    exact .inr (.inr (.inr ⟨h2, hmask, _, _, _, _, _, _, hd.trans e⟩))
  · bv_omega

/-- A PARSE of an accepted block leaves STATUS OK and the class's descriptor (R155). -/
theorem parse_of_ok {B : Block} {i : Instr} (h : decode B = .ok i) (s : State) :
    parse B s = .next { s with status := .ok, desc := classDescriptor i } := by
  rw [parse, h]
  exact exec_class (decode_ok h).1 s

/-- A range inside a framed block selects as many bytes as its length says. -/
theorem slice_length {B : Block} {off len : BitVec 12} (hf : Framed B) (inside : off.toNat + len.toNat ≤ 2352) :
    (slice B off len).length = len.toNat := by
  rw [slice, List.length_take, List.length_drop, hf.length]
  omega

/-- A slice's bytes are the block's own, from the range's offset (R10). -/
theorem slice_getElem? (B : Block) (off len : BitVec 12) (j : Nat) (hj : j < len.toNat) :
    (slice B off len)[j]? = B[off.toNat + j]? := by
  rw [slice, List.getElem?_take_of_lt hj, List.getElem?_drop]

/-- Settles O25: each class leaves its own ranges, and every range lies inside the block. -/
theorem slicesAreTheBlocksOwnBytes : Obligations.SlicesAreTheBlocksOwnBytes := by
  intro B s hf m sm h15 hm h18
  rcases decode_of_framed hf h15 hm h18 with ⟨rfl, mm, ss, ff, hd⟩ | ⟨rfl, mm, ss, ff, hd⟩ |
    ⟨rfl, hsm, mm, ss, ff, f, c, ci, hd⟩ | ⟨rfl, hsm, mm, ss, ff, f, c, ci, hd⟩
  · refine ⟨_, parse_of_ok hd s, fun _ => ⟨rfl, rfl, rfl⟩, ?_, ?_, ?_⟩ <;> exact fun h => absurd h (by decide)
  · refine ⟨_, parse_of_ok hd s, fun h => absurd h (by decide), fun _ => ?_, fun h => absurd h (by decide),
      fun h => absurd h (by decide)⟩
    exact ⟨slice B 16 2048, slice B 2064 4, slice B 2076 276, rfl, rfl, rfl,
      slice_length hf (by decide), slice_length hf (by decide), slice_length hf (by decide),
      slice_getElem? B 16 2048, slice_getElem? B 2064 4, slice_getElem? B 2076 276⟩
  · refine ⟨_, parse_of_ok hd s, fun h => absurd h (by decide), fun h => absurd h (by decide), fun _ _ => ?_,
      fun _ h => absurd hsm h⟩
    have form1 : formOf sm = 1 := by rw [formOf_eq, (and_form2Mask_eq_zero_iff sm).1 hsm]; rfl
    exact ⟨slice B 24 2048, slice B 2072 4, slice B 2076 276, rfl, rfl,
      by simp [eccSlice, eccPresent, hdrPresent, classDescriptor, classDescriptor.mode2, form1],
      slice_length hf (by decide), slice_length hf (by decide), slice_length hf (by decide),
      slice_getElem? B 24 2048, slice_getElem? B 2072 4, slice_getElem? B 2076 276⟩
  · refine ⟨_, parse_of_ok hd s, fun h => absurd h (by decide), fun h => absurd h (by decide),
      fun _ h => absurd h hsm, fun _ _ => ?_⟩
    exact ⟨slice B 24 2324, slice B 2348 4, rfl, rfl,
      by simp [eccSlice, classDescriptor, classDescriptor.mode2, Descriptor.absent],
      slice_length hf (by decide), slice_length hf (by decide),
      slice_getElem? B 24 2324, slice_getElem? B 2348 4⟩

end Sys2Proof.Machine
end

section
/-! PROOFS. The idle steps of spec/44_stream_operations.md: what a run of them does (R183). -/

namespace Sys2Proof.Machine

open Sys2Proof

/-- An idle edge with the levels that IDLE ignores, `in_data` and `in_last` (R183). -/
def idleEdge (ignored : Byte × Bool) : Input := .edge false false ignored.1 ignored.2

/-- An edge with `rst` and `in_valid` low is IDLE, its input consumed (R181, R183). -/
theorem step_of_idleEdge {s : State} {e : Byte × Bool} {rest : List Input} (h : s.inputs = idleEdge e :: rest) :
    step s = .next (idleOp { s with inputs := rest }) :=
  step_of_edge h

/-- Idle edges one after the other do together what the first one does: IDLE is idempotent (R183). -/
theorem run_idleEdges (e : Byte × Bool) (es : List (Byte × Bool)) (rest : List Input) (s : State)
    (h : s.inputs = (e :: es).map idleEdge ++ rest) :
    core.run (e :: es).length s = .next (idleOp { s with inputs := rest }) := by
  induction es generalizing s e with
  | nil =>
    rw [List.length_singleton, run_succ_next (step_of_idleEdge h)]
    exact run_zero _
  | cons e' es ih =>
    rw [List.length_cons, run_succ_next (step_of_idleEdge h)]
    exact ih e' (idleOp { s with inputs := (e' :: es).map idleEdge ++ rest }) rfl

/-- Settles O28: a list of idle edges that is not empty is a first one and the rest. -/
theorem idleEdgesChangeNoResult : Obligations.IdleEdgesChangeNoResult := by
  intro s ignored rest nonempty
  obtain ⟨e, es, rfl⟩ := List.exists_cons_of_ne_nil nonempty
  exact run_idleEdges e es rest _ rfl

end Sys2Proof.Machine
end

section
/-! PROOFS. The error entry of spec/60_exceptions.md (R206), in a PARSE and in the COMMIT of a last byte. -/

namespace Sys2Proof.Machine

open Sys2Proof

/-- COMMIT's answer by the first defect of what was captured (R186, R205). The cases exclude one another. -/
theorem decodeCaptured_by_defect (i : Nat) (ok : Bool) (h : Header) :
    (i ≠ 2351 ∧ decodeCaptured i ok h = .error .badLength) ∨
    (i = 2351 ∧ ok = false ∧ decodeCaptured i ok h = .error .badSync) ∨
    (i = 2351 ∧ ok = true ∧ 3 ≤ h.hMode.toNat ∧ decodeCaptured i ok h = .error .unknownMode) ∨
    (i = 2351 ∧ ok = true ∧ h.hMode.toNat ≤ 2 ∧ ∃ ins, decodeCaptured i ok h = .ok ins) := by
  by_cases hi : i = 2351
  · subst hi
    cases ok with
    | false => exact .inr (.inl ⟨rfl, rfl, rfl⟩)
    | true =>
      have hd : decodeCaptured 2351 true h = selectClass h := rfl
      rcases selectClass_by_mode h with ⟨hm, ins, e⟩ | ⟨hm, e⟩
      · exact .inr (.inr (.inr ⟨rfl, rfl, hm, ins, hd.trans e⟩))
      · exact .inr (.inr (.inl ⟨rfl, rfl, hm, hd.trans e⟩))
  · have hlen : i + 1 ≠ blockLen := by rw [blockLen]; omega
    exact .inl ⟨hi, by rw [decodeCaptured, if_pos hlen]⟩

/-- The last byte of a block of the right length is neither watched nor captured (R184). -/
theorem seen_at_lastOffset (d : Byte) {s : State} (h : s.cnt.toNat = 2351) : seen d s = s :=
  seen_of_ge d s (by omega)

@[simp] theorem seen_inputs (d : Byte) (s : State) : (seen d s).inputs = s.inputs :=
  watchSync_inputs _ _ _

/-- A last byte whose COMMIT raises an error: the error entry, then the end of the block (R184, R206). -/
theorem accept_last_of_error {d : Byte} {s : State} {e : BlockError}
    (h : decodeCaptured s.cnt.toNat (seen d s).syncOk (seen d s).cap = .error e) :
    accept d true s = .next (endBlock (raiseError e (seen d s))) := by
  rcases accept_last d s with ⟨e', he, ha⟩ | ⟨ins, hok, _⟩
  · cases he.symm.trans h
    exact ha
  · cases hok.symm.trans h

/-- The error entry of a last byte writes every register of SHP, so only the inputs to come stay (R206). -/
theorem endBlock_raiseError_seen (e : BlockError) (d : Byte) (s : State) :
    endBlock (raiseError e (seen d s)) =
      { s with
        status := errorStatus e
        stickyErr := true
        desc := Descriptor.absent
        cnt := 0
        syncOk := true
        done := true
        cap := (seen d s).cap } := by
  simp only [endBlock, raiseError, seen_inputs]

/-- The error of a last byte, by the state before it; with CNT 2351 the byte itself plays no part (R186, R205). -/
theorem decodeCaptured_seen_error {d : Byte} {s : State}
    (h : s.cnt.toNat ≠ 2351 ∨ s.syncOk = false ∨ 3 ≤ s.cap.hMode.toNat) :
    decodeCaptured s.cnt.toNat (seen d s).syncOk (seen d s).cap =
      .error (if s.cnt.toNat ≠ 2351 then .badLength else if s.syncOk = false then .badSync else .unknownMode) := by
  by_cases hcnt : s.cnt.toNat = 2351
  · rw [seen_at_lastOffset d hcnt]
    rcases decodeCaptured_by_defect s.cnt.toNat s.syncOk s.cap with
      ⟨hc, _⟩ | ⟨_, hs, e⟩ | ⟨_, hs, _, e⟩ | ⟨_, hs, hm, _⟩
    · exact absurd hcnt hc
    · rw [e]
      simp [hcnt, hs]
    · rw [e]
      simp [hcnt, hs]
    · have hm' : 3 ≤ s.cap.hMode.toNat := by simpa [hcnt, hs] using h
      omega
  · rcases decodeCaptured_by_defect s.cnt.toNat (seen d s).syncOk (seen d s).cap with
      ⟨_, e⟩ | ⟨hc, _⟩ | ⟨hc, _⟩ | ⟨hc, _⟩
    · simp [e, hcnt]
    all_goals exact absurd hc hcnt

/-- Settles O19: a PARSE is the error entry by its own law, and a last byte's COMMIT raises the first defect's error. -/
theorem errorEntry : Obligations.ErrorEntry := by
  refine ⟨fun B e s hd => ⟨_, parse_of_error hd s, rfl, rfl, by cases e <;> rfl⟩, fun d s hdefect => ?_⟩
  have hcommit := decodeCaptured_seen_error (d := d) hdefect
  refine ⟨_, accept_last_of_error hcommit, endBlock_raiseError_seen _ d s, captures_seen d s, ?_⟩
  rw [endBlock_status, raiseError_status]
  split_ifs <;> rfl

end Sys2Proof.Machine
end

section
/-! PROOFS. The synchronous RESET of spec/70_reset_and_hazards.md: what one reset edge leaves (R230). -/

namespace Sys2Proof.Machine

open Sys2Proof

/-- At a clock edge `rst` wins over the other ports (R181). -/
theorem step_of_resetEdge {s : State} {v l : Bool} {d : Byte} {rest : List Input}
    (h : s.inputs = .edge true v d l :: rest) : step s = .next (resetOp { s with inputs := rest }) :=
  step_of_edge h

/-- RESET keeps nothing of the state but the host's inputs to come (R182). -/
theorem resetOp_congr {s s' : State} (h : s.inputs = s'.inputs) : resetOp s = resetOp s' :=
  congrArg (fun xs => { State.reset with inputs := xs }) h

@[simp] theorem resetOp_outcome (s : State) : (resetOp s).outcome = State.reset.outcome := rfl

/-- Settles O27: both edges are RESET by `step_of_resetEdge`, and both RESETs meet the same inputs to come. -/
theorem resetEdge : Obligations.ResetEdge := by
  intro s v v' l l' d d' rest
  have first := step_of_resetEdge (s := { s with inputs := .edge true v d l :: rest }) rfl
  refine ⟨_, first, ?status, resetOp_stickyErr _, resetOp_done _, resetOp_desc _, ?cnt, resetOp_syncOk _,
    resetOp_cap _, resetOp_outcome _, ?again⟩
  case status =>
    rw [resetOp_status]
    rfl
  case cnt =>
    rw [resetOp_cnt]
    rfl
  case again =>
    rw [step_of_resetEdge rfl]
    exact congrArg _ (resetOp_congr rfl)

end Sys2Proof.Machine
end

section
/-! PROOFS. The encoder and the decoder of spec/30_encoding.md: which bytes of a block take part in decoding (R61, R87),
how they select the class (R83), and that an encoded class decodes to itself (R81). -/

namespace Sys2Proof.Machine

open Sys2Proof

/-! ### The bytes the decoder reads -/

/-- A block that starts with the sync has it, its timecode and its mode byte as its first 16 bytes (R6). -/
theorem take_sixteen {B : Block} {h : Header} (hs : B.take syncLen = sync) (hh : readHeader B = some h) :
    B.take 16 = sync ++ [h.hMin, h.hSec, h.hSect, h.hMode] := by
  obtain ⟨h12, h13, h14, h15, -⟩ := readHeader_eq_some hh
  rw [List.take_add_one (i := 15), List.take_add_one (i := 14), List.take_add_one (i := 13),
    List.take_add_one (i := 12), h12, h13, h14, h15, show B.take 12 = sync from hs]
  rfl

/-- The first 20 bytes are these and the subheader (R6). -/
theorem take_twenty {B : Block} {h : Header} (hs : B.take syncLen = sync) (hh : readHeader B = some h) :
    B.take 20 = sync ++ [h.hMin, h.hSec, h.hSect, h.hMode, h.sFile, h.sChan, h.sSubmode, h.sCi] := by
  obtain ⟨-, -, -, -, h16, h17, h18, h19⟩ := readHeader_eq_some hh
  rw [List.take_add_one (i := 19), List.take_add_one (i := 18), List.take_add_one (i := 17),
    List.take_add_one (i := 16), h16, h17, h18, h19, take_sixteen hs hh]
  rfl

/-- Blocks with the same first `n` bytes have the same byte at every offset below `n`. -/
theorem getElem?_eq_of_take_eq {B C : Block} {n i : Nat} (h : B.take n = C.take n) (hi : i < n) : B[i]? = C[i]? := by
  rw [← List.getElem?_take_of_lt hi, h, List.getElem?_take_of_lt hi]

/-- The class is selected without the subheader unless the mode is 2 (R83). -/
theorem selectClass_congr {h h' : Header} (hmin : h.hMin = h'.hMin) (hsec : h.hSec = h'.hSec)
    (hsect : h.hSect = h'.hSect) (hmode : h.hMode = h'.hMode) (h2 : h.hMode = 2 → h = h') :
    selectClass h = selectClass h' := by
  by_cases hm : h.hMode = 2
  · rw [h2 hm]
  · have hm' : h'.hMode ≠ 2 := hmode ▸ hm
    simp only [selectClass, hmin, hsec, hsect, hmode, if_neg hm']

/-- The decoder reads the length, the first 16 bytes and, for mode 2, four more (R61, R87). -/
theorem decode_congr {B C : Block} (hlen : B.length = C.length) (h16 : B.take 16 = C.take 16)
    (h20 : B[15]? = some 2 → B.take 20 = C.take 20) : decode B = decode C := by
  have hsync : B.take syncLen = C.take syncLen := by
    simpa [List.take_take, syncLen] using congrArg (List.take syncLen) h16
  rcases decode_cases B with ⟨hl, e⟩ | ⟨hl, hs, e⟩ | ⟨hl, hs, h, hh, e⟩
  · rw [e, decode, if_pos (hlen ▸ hl)]
  · rw [e, decode, if_neg (not_not.2 (hlen ▸ hl)), if_pos (hsync ▸ hs)]
  · obtain ⟨h', hh', e'⟩ := decode_of_sync (B := C) (hlen ▸ hl) (hsync ▸ hs)
    rw [e, e']
    have same_of_lt_sixteen {i : Nat} (hi : i < 16) : B[i]? = C[i]? := getElem?_eq_of_take_eq h16 hi
    obtain ⟨b12, b13, b14, b15, b16, b17, b18, b19⟩ := readHeader_eq_some hh
    obtain ⟨c12, c13, c14, c15, c16, c17, c18, c19⟩ := readHeader_eq_some hh'
    refine selectClass_congr ?_ ?_ ?_ ?_ fun hm => ?_
    · exact Option.some.inj (b12.symm.trans ((same_of_lt_sixteen (by decide)).trans c12))
    · exact Option.some.inj (b13.symm.trans ((same_of_lt_sixteen (by decide)).trans c13))
    · exact Option.some.inj (b14.symm.trans ((same_of_lt_sixteen (by decide)).trans c14))
    · exact Option.some.inj (b15.symm.trans ((same_of_lt_sixteen (by decide)).trans c15))
    · have same_of_lt_twenty {i : Nat} (hi : i < 20) : B[i]? = C[i]? := getElem?_eq_of_take_eq (h20 (hm ▸ b15)) hi
      have hBC : readHeader B = readHeader C := by
        unfold readHeader memRead
        rw [same_of_lt_twenty (i := offMin) (by decide), same_of_lt_twenty (i := offSec) (by decide),
          same_of_lt_twenty (i := offSect) (by decide), same_of_lt_twenty (i := offMode) (by decide),
          same_of_lt_twenty (i := offFile) (by decide), same_of_lt_twenty (i := offChan) (by decide),
          same_of_lt_twenty (i := offSubmode) (by decide), same_of_lt_twenty (i := offCi) (by decide)]
      exact Option.some.inj (hh.symm.trans (hBC.trans hh'))

/-- Settles O21: a PARSE is a function of what the decoder answers. -/
theorem unreadBytesPlayNoPart : Obligations.UnreadBytesPlayNoPart := by
  intro B C s hlen h16 h20
  rw [parse, parse, decode_congr hlen h16 h20]

/-! ### The encoder -/

theorem blockOf_take_sync (hdr : List Byte) : (blockOf hdr).take syncLen = sync := by
  rw [blockOf, List.append_assoc]
  exact List.take_left' sync_length

/-- A block built from a header decodes by that header (R83, R89). -/
theorem decode_blockOf {hdr : List Byte} {h : Header} (hlen : syncLen + hdr.length ≤ blockLen)
    (hh : readHeader (blockOf hdr) = some h) : decode (blockOf hdr) = selectClass h := by
  obtain ⟨h', hh', hd⟩ := decode_of_sync (Laws.BlockLength.blockOf_length hlen) (blockOf_take_sync hdr)
  cases hh.symm.trans hh'
  exact hd

theorem readHeader_blockOf_four (mm ss ff m : Byte) :
    readHeader (blockOf [mm, ss, ff, m]) = some ⟨mm, ss, ff, m, 0, 0, 0, 0⟩ := rfl

theorem readHeader_blockOf_eight (mm ss ff m f c sm ci : Byte) :
    readHeader (blockOf [mm, ss, ff, m, f, c, sm, ci]) = some ⟨mm, ss, ff, m, f, c, sm, ci⟩ := rfl

theorem encode_isSome (i : Instr) : (encode i).isSome = i.isClass := by
  cases i <;> rfl

/-- The block of a well-formed class decodes to that class (R81, R83). -/
theorem decode_encode {i : Instr} {B : Block} (hw : i.wellFormed = true) (he : encode i = some B) :
    decode B = .ok i := by
  cases i with
  | secM0 mm ss ff =>
    cases he
    exact decode_blockOf (Nat.le_of_ble_eq_true rfl) (readHeader_blockOf_four mm ss ff 0)
  | secM1 mm ss ff =>
    cases he
    exact decode_blockOf (Nat.le_of_ble_eq_true rfl) (readHeader_blockOf_four mm ss ff 1)
  | secM2F1 mm ss ff f c sm ci =>
    cases he
    have hb : form2Bit sm = false := by simpa [Instr.wellFormed, form2Bit] using hw
    rw [decode_blockOf (Nat.le_of_ble_eq_true rfl) (readHeader_blockOf_eight mm ss ff 2 f c sm ci)]
    simp [selectClass, hb]
  | secM2F2 mm ss ff f c sm ci =>
    cases he
    have hb : form2Bit sm = true := hw
    rw [decode_blockOf (Nat.le_of_ble_eq_true rfl) (readHeader_blockOf_eight mm ss ff 2 f c sm ci)]
    simp [selectClass, hb]
  | _ => cases he

/-- Settles O1, by the header that each class's block holds. -/
theorem decodeUndoesEncode : Obligations.DecodeUndoesEncode :=
  fun i => ⟨encode_isSome i, fun hw _ => decode_encode hw⟩

/-- An accepted block and the block of what it decodes to agree on the bytes that decoding reads (R61, R81). -/
theorem encode_of_decode {B : Block} {i : Instr} (hd : decode B = .ok i) :
    ∃ E, encode i = some E ∧ E.take 16 = B.take 16 ∧ (B[15]? = some 2 → E.take 20 = B.take 20) := by
  obtain ⟨-, hs, h, hh, hi⟩ := decode_ok_cases hd
  obtain ⟨-, -, -, h15, -⟩ := readHeader_eq_some hh
  have mode_eq (m : Byte) (hm : h.hMode = m) (h2 : B[15]? = some 2) : m = 2 :=
    hm.symm.trans (Option.some.inj (h15.symm.trans h2))
  rcases hi with ⟨hm, rfl⟩ | ⟨hm, rfl⟩ | ⟨hm, -, rfl⟩ | ⟨hm, -, rfl⟩
  · refine ⟨_, rfl, ?_, fun h2 => absurd (mode_eq _ hm h2) (by decide)⟩
    rw [take_sixteen hs hh, hm, take_sixteen (blockOf_take_sync _) (readHeader_blockOf_four _ _ _ _)]
  · refine ⟨_, rfl, ?_, fun h2 => absurd (mode_eq _ hm h2) (by decide)⟩
    rw [take_sixteen hs hh, hm, take_sixteen (blockOf_take_sync _) (readHeader_blockOf_four _ _ _ _)]
  all_goals
    refine ⟨_, rfl, ?_, fun _ => ?_⟩
    · rw [take_sixteen hs hh, hm, take_sixteen (blockOf_take_sync _) (readHeader_blockOf_eight _ _ _ _ _ _ _ _)]
    · rw [take_twenty hs hh, hm, take_twenty (blockOf_take_sync _) (readHeader_blockOf_eight _ _ _ _ _ _ _ _)]

/-- Settles O2: `decode_ok` for the class, `encode_of_decode` for the bytes. -/
theorem decodedBlockAgreesWithItsEncoding : Obligations.DecodedBlockAgreesWithItsEncoding := by
  intro B i hd
  obtain ⟨hclass, hwell⟩ := decode_ok hd
  exact ⟨hclass, hwell, encode_of_decode hd⟩

/-- Settles O6: the first four blocks are encodings; the others fail the length, the sync and the mode. -/
theorem writtenOutBlocksDecode : Obligations.WrittenOutBlocksDecode := by
  refine ⟨decode_encode (i := .secM0 0x12 0x34 0x56) rfl rfl, decode_encode (i := .secM1 0x00 0x02 0x00) rfl rfl,
    decode_encode (i := .secM2F1 0x00 0x02 0x16 0x01 0x1F 0x02 0x00) rfl rfl,
    decode_encode (i := .secM2F2 0x27 0x00 0x99 0xFF 0xE3 0xFF 0x7F) rfl rfl, ?short, ?zeros, ?mode⟩
  case short => exact if_pos (by rw [List.length_append, List.length_replicate]; decide)
  case zeros =>
    exact (if_neg (not_not.2 List.length_replicate)).trans (if_pos (by rw [List.take_replicate]; decide))
  case mode => exact decode_blockOf (Nat.le_of_ble_eq_true rfl) (readHeader_blockOf_four 0x00 0x02 0x00 0x12)

/-! ### The opcode map -/

/-- A framed block is decided by its eight header bytes (R83, R84). -/
theorem decode_of_framed_header {B : Block} {h : Header} (hf : Framed B) (hh : readHeader B = some h) :
    decode B = selectClass h := by
  obtain ⟨hlen, hsync⟩ := (framed_iff B).1 hf
  obtain ⟨h', hh', hd⟩ := decode_of_sync hlen hsync
  cases hh.symm.trans hh'
  exact hd

/-- A framed block has its eight header bytes. -/
theorem readHeader_of_framed {B : Block} (hf : Framed B) : ∃ h, readHeader B = some h :=
  readHeader_isSome (by rw [hf.length]; decide)

/-- Settles O3, by the branches of `selectClass` on the header's bytes. -/
theorem modeAndFormSelectTheClass : Obligations.ModeAndFormSelectTheClass := by
  intro B mm ss ff m f c sm ci hf h12 h13 h14 h15 h16 h17 h18 h19
  have hh : readHeader B = some ⟨mm, ss, ff, m, f, c, sm, ci⟩ := readHeader_of_bytes h12 h13 h14 h15 h16 h17 h18 h19
  rw [decode_of_framed_header hf hh]
  refine ⟨fun hm => ?_, fun hm => ?_, fun hm hb => ?_, fun hm hb => ?_, fun hm => ?_⟩
  · obtain rfl : m = 0 := BitVec.eq_of_toNat_eq hm
    rfl
  · obtain rfl : m = 1 := BitVec.eq_of_toNat_eq hm
    rfl
  · obtain rfl : m = 2 := BitVec.eq_of_toNat_eq hm
    have hform : form2Bit sm = false := (and_form2Mask_eq_zero_iff sm).1 hb
    simp [selectClass, hform]
  · obtain rfl : m = 2 := BitVec.eq_of_toNat_eq hm
    have hform : form2Bit sm = true := eq_true_of_ne_false (mt (and_form2Mask_eq_zero_iff sm).2 hb)
    simp [selectClass, hform]
  · rcases selectClass_by_mode ⟨mm, ss, ff, m, f, c, sm, ci⟩ with ⟨hle, -⟩ | ⟨-, he⟩
    · exact absurd hm (Nat.not_le.2 (Nat.lt_succ_of_le hle))
    · exact he

/-! ### The rows of the opcode table -/

/-- A class row's mask with `fm` in its byte 18, the byte of the function bit (R82, R83). -/
def rowMask (fm : Byte) : List Byte :=
  [0xFF, 0xFF, 0xFF, 0xFF, 0xFF, 0xFF, 0xFF, 0xFF, 0xFF, 0xFF, 0xFF, 0xFF, 0, 0, 0, 0xFF, 0, 0, fm, 0, 0, 0, 0, 0]

/-- A class row's match with the mode byte `mode`, and `fv` in its byte 18. -/
def rowMatch (mode fv : Byte) : List Byte :=
  [0x00, 0xFF, 0xFF, 0xFF, 0xFF, 0xFF, 0xFF, 0xFF, 0xFF, 0xFF, 0xFF, 0x00, 0, 0, 0, mode, 0, 0, fv, 0, 0, 0, 0, 0]

/-- A row asks for the whole sync pattern. -/
theorem row_sync (mode fm fv : Byte) {i : Nat} (hi : i < 12) :
    (rowMask fm)[i]? = some 0xFF ∧ (rowMatch mode fv)[i]? = some (if i = 0 ∨ i = 11 then 0x00 else 0xFF) := by
  interval_cases i <;> exact ⟨rfl, rfl⟩

/-- Of the bytes after the sync a row looks at offsets 15 and 18 alone. -/
theorem row_ignores (mode fm fv : Byte) {i : Nat} (h12 : ¬ i < 12) (h24 : i < 24) (h15 : i ≠ 15) (h18 : i ≠ 18) :
    (rowMask fm)[i]? = some 0 ∧ (rowMatch mode fv)[i]? = some 0 := by
  interval_cases i <;> first | exact ⟨rfl, rfl⟩ | contradiction

/-- What a row of the opcode table says of a block (R82). -/
theorem maskedHeaderIs_row_iff {B : Block} {h : Header} (hl : B.length = 2352) (hh : readHeader B = some h)
    (mode fm fv : Byte) :
    maskedHeaderIs B (rowMask fm) (rowMatch mode fv) ↔ Framed B ∧ h.hMode = mode ∧ h.sSubmode &&& fm = fv := by
  obtain ⟨-, -, -, h15, -, -, h18, -⟩ := readHeader_eq_some hh
  constructor
  · intro hmask
    refine ⟨⟨hl, fun i hi => ?_⟩, ?_, ?_⟩
    · obtain ⟨b, m, v, hb, hm, hv, hbv⟩ := hmask i (by omega)
      obtain ⟨hFF, hsync⟩ := row_sync mode fm fv hi
      cases hFF.symm.trans hm
      cases hsync.symm.trans hv
      rw [hb, ← hbv]
      exact congrArg some BitVec.and_allOnes.symm
    · obtain ⟨b, m, v, hb, hm, hv, hbv⟩ := hmask 15 (by decide)
      cases hm
      cases hv
      cases h15.symm.trans hb
      exact BitVec.and_allOnes.symm.trans hbv
    · obtain ⟨b, m, v, hb, hm, hv, hbv⟩ := hmask 18 (by decide)
      cases hm
      cases hv
      cases h18.symm.trans hb
      exact hbv
  · rintro ⟨hf, hmode, hform⟩ i hi
    by_cases h12 : i < 12
    · obtain ⟨hFF, hsync⟩ := row_sync mode fm fv h12
      exact ⟨_, _, _, hf.sync i h12, hFF, hsync, BitVec.and_allOnes⟩
    by_cases hi15 : i = 15
    · subst hi15
      exact ⟨_, _, _, h15, rfl, rfl, BitVec.and_allOnes.trans hmode⟩
    by_cases hi18 : i = 18
    · subst hi18
      exact ⟨_, _, _, h18, rfl, rfl, hform⟩
    obtain ⟨hmask, hmatch⟩ := row_ignores mode fm fv h12 hi hi15 hi18
    exact ⟨_, _, _, List.getElem?_eq_getElem (by omega), hmask, hmatch, BitVec.and_zero⟩

/-- The mask of the function bit keeps that bit alone. -/
theorem and_form2Mask_eq_iff (sm : Byte) : sm &&& 0x20 = 0x20 ↔ sm.getLsbD 5 = true := by
  rw [show (0x20 : Byte) = BitVec.twoPow 8 5 from rfl, BitVec.and_twoPow]
  cases sm.getLsbD 5 <;> decide

/-- Which headers select each class (R83). -/
theorem selectClass_rows (h : Header) :
    ((∃ mm ss ff, selectClass h = .ok (.secM0 mm ss ff)) ↔ h.hMode = 0) ∧
    ((∃ mm ss ff, selectClass h = .ok (.secM1 mm ss ff)) ↔ h.hMode = 1) ∧
    ((∃ mm ss ff f c sm ci, selectClass h = .ok (.secM2F1 mm ss ff f c sm ci)) ↔
      h.hMode = 2 ∧ h.sSubmode.getLsbD 5 = false) ∧
    ((∃ mm ss ff f c sm ci, selectClass h = .ok (.secM2F2 mm ss ff f c sm ci)) ↔
      h.hMode = 2 ∧ h.sSubmode.getLsbD 5 = true) := by
  rcases selectClass_cases h with ⟨hm, e⟩ | ⟨hm, e⟩ | ⟨hm, hb, e⟩ | ⟨hm, hb, e⟩ | ⟨h0, h1, h2, e⟩
  · simp [e, hm]
  · simp [e, hm]
  · simp [e, hm, hb, -BitVec.getLsbD_eq_getElem]
  · simp [e, hm, hb, -BitVec.getLsbD_eq_getElem]
  · have refused (i : Instr) : selectClass h ≠ .ok i := by rw [e]; exact nofun
    exact ⟨iff_of_false (fun ⟨_, _, _, hi⟩ => refused _ hi) h0, iff_of_false (fun ⟨_, _, _, hi⟩ => refused _ hi) h1,
      iff_of_false (fun ⟨_, _, _, _, _, _, _, hi⟩ => refused _ hi) fun hm => h2 hm.1,
      iff_of_false (fun ⟨_, _, _, _, _, _, _, hi⟩ => refused _ hi) fun hm => h2 hm.1⟩

/-- A block is accepted as `i` exactly when it is framed and its header selects `i` (R84). -/
theorem decode_eq_ok_iff {B : Block} {h : Header} (hh : readHeader B = some h) (i : Instr) :
    decode B = .ok i ↔ Framed B ∧ selectClass h = .ok i := by
  constructor
  · intro hd
    obtain ⟨hlen, hsync, -⟩ := decode_ok_cases hd
    have hf : Framed B := (framed_iff B).2 ⟨hlen, hsync⟩
    exact ⟨hf, (decode_of_framed_header hf hh).symm.trans hd⟩
  · rintro ⟨hf, hs⟩
    exact (decode_of_framed_header hf hh).trans hs

/-- Settles O4: both sides say that the block is framed and that its bytes 15 and 18 are the row's. -/
theorem maskedHeaderSelectsTheRow : Obligations.MaskedHeaderSelectsTheRow := by
  intro B hl
  obtain ⟨h, hh⟩ := readHeader_isSome (B := B) (by omega)
  obtain ⟨m0, m1, m2f1, m2f2⟩ := selectClass_rows h
  have row := maskedHeaderIs_row_iff hl hh
  simp only [decode_eq_ok_iff hh, exists_and_left]
  refine ⟨?_, ?_, ?_, ?_⟩
  · exact (and_congr_right fun _ => m0.trans (by simp)).trans (row 0 0 0).symm
  · exact (and_congr_right fun _ => m1.trans (by simp)).trans (row 1 0 0).symm
  · exact (and_congr_right fun _ => m2f1.trans (by rw [and_form2Mask_eq_zero_iff])).trans (row 2 0x20 0).symm
  · exact (and_congr_right fun _ => m2f2.trans (by rw [and_form2Mask_eq_iff])).trans (row 2 0x20 0x20).symm

end Sys2Proof.Machine
end

section
/-! PROOFS. The result of a block as a function of what the decoder answers and of STICKY_ERR (R33, R155, R206): what PARSE
and COMMIT share. -/

namespace Sys2Proof.Machine

open Sys2Proof

/-- STATUS, STICKY_ERR and the descriptor after a decoder's answer, from STICKY_ERR before it (R155, R206). -/
def decodedOutcome (r : Except BlockError Instr) (sticky : Bool) : Status × Bool × Descriptor :=
  match r with
  | .error e => (errorStatus e, true, Descriptor.absent)
  | .ok i => (.ok, sticky, classDescriptor i)

theorem outcome_eq_error_iff {t : State} {e : BlockError} {sticky : Bool} :
    t.outcome = decodedOutcome (.error e) sticky ↔
      t.status = errorStatus e ∧ t.stickyErr = true ∧ t.desc = Descriptor.absent := by
  simp only [State.outcome, decodedOutcome, Prod.mk.injEq]

theorem outcome_eq_ok_iff {t : State} {i : Instr} {sticky : Bool} :
    t.outcome = decodedOutcome (.ok i) sticky ↔
      t.status = .ok ∧ t.stickyErr = sticky ∧ t.desc = classDescriptor i := by
  simp only [State.outcome, decodedOutcome, Prod.mk.injEq]

/-- A PARSE answers with the outcome of its block and leaves every other register (R155). -/
theorem parse_eq (B : Block) (s : State) : ∃ t, parse B s = .next t ∧
    t.outcome = decodedOutcome (decode B) s.stickyErr ∧
    t.done = s.done ∧ t.cnt = s.cnt ∧ t.syncOk = s.syncOk ∧ t.cap = s.cap ∧ t.inputs = s.inputs := by
  rcases parse_cases B s with ⟨e, hd, h⟩ | ⟨i, hd, h⟩
  · exact ⟨_, h, by rw [hd]; rfl, rfl, rfl, rfl, rfl, rfl⟩
  · exact ⟨_, h, by rw [hd]; rfl, rfl, rfl, rfl, rfl, rfl⟩

/-- The outcome of a PARSE alone. -/
theorem parse_outcome (B : Block) (s : State) :
    ∃ t, parse B s = .next t ∧ t.outcome = decodedOutcome (decode B) s.stickyErr := by
  obtain ⟨t, h, hout, -⟩ := parse_eq B s
  exact ⟨t, h, hout⟩

/-- Blocks parsed in turn from states of one outcome end in one outcome: SHP keeps nothing else from block to block. -/
theorem parseAll_outcome_congr (Bs : List Block) {s s' : State} (h : s.outcome = s'.outcome) :
    ∃ t t', parseAll Bs s = .next t ∧ parseAll Bs s' = .next t' ∧ t.outcome = t'.outcome := by
  induction Bs generalizing s s' with
  | nil => exact ⟨s, s', rfl, rfl, h⟩
  | cons B Bs ih =>
    obtain ⟨u, hu, hout⟩ := parse_outcome B s
    obtain ⟨u', hu', hout'⟩ := parse_outcome B s'
    have hsticky : s.stickyErr = s'.stickyErr := congrArg (·.2.1) h
    obtain ⟨t, t', ht, ht', heq⟩ := ih (s := u) (s' := u') (by rw [hout, hout', hsticky])
    exact ⟨t, t', by rw [parseAll, hu]; exact ht, by rw [parseAll, hu']; exact ht', heq⟩

/-- Settles O20: the STATUS and the descriptor of a PARSE come from its block alone. -/
theorem parseLeavesNoResidue : Obligations.ParseLeavesNoResidue :=
  parse_result_eq

end Sys2Proof.Machine
end

section
/-! PROOFS. One byte at a time: what an accepted byte does (R184, R186), and when the result may change (R235). -/

namespace Sys2Proof.Machine

open Sys2Proof

@[simp] theorem seen_status (d : Byte) (s : State) : (seen d s).status = s.status := watchSync_status _ _ _
@[simp] theorem seen_desc (d : Byte) (s : State) : (seen d s).desc = s.desc := watchSync_desc _ _ _

/-- Parts 1 and 2 of ACCEPT leave the result (R184). -/
@[simp] theorem seen_outcome (d : Byte) (s : State) : (seen d s).outcome = s.outcome := by
  simp only [State.outcome, seen_status, seen_stickyErr, seen_desc]

/-- The sync pattern by its offsets (R5). -/
theorem sync_getElem? {i : Nat} (hi : i < syncLen) : sync[i]? = some (if i = 0 ∨ i = 11 then 0x00 else 0xFF) := by
  have hi' : i < 12 := hi
  interval_cases i <;> rfl

/-- SYNC_OK stays 1 exactly over a byte that is not wrong (R29, R184). -/
theorem seen_syncOk_iff (d : Byte) (s : State) :
    (seen d s).syncOk = true ↔ s.syncOk = true ∧ (s.cnt.toNat < syncLen → sync[s.cnt.toNat]? = some d) := by
  simp only [seen_syncOk, Bool.and_eq_true, Bool.not_eq_true', decide_eq_false_iff_not, not_and, not_not, ne_eq]

/-- COMMIT's checks read nothing that the last byte itself may write: with CNT 2351 it is neither watched nor captured, and
any other CNT is a wrong length (R184, R186). -/
theorem decodeCaptured_seen (d : Byte) (s : State) :
    decodeCaptured s.cnt.toNat (seen d s).syncOk (seen d s).cap = decodeCaptured s.cnt.toNat s.syncOk s.cap := by
  by_cases hc : s.cnt.toNat = 2351
  · rw [seen_at_lastOffset d hc]
  · have hlen : s.cnt.toNat + 1 ≠ blockLen := fun h => hc (Nat.succ.inj h)
    rw [decodeCaptured, decodeCaptured, if_pos hlen, if_pos hlen]

/-- A last byte always answers: the end of the block, and the outcome of what was captured before it (R184, R186). -/
theorem accept_last_eq (d : Byte) (s : State) : ∃ t, accept d true s = .next t ∧
    t.outcome = decodedOutcome (decodeCaptured s.cnt.toNat s.syncOk s.cap) s.stickyErr ∧
    t.cnt = 0 ∧ t.syncOk = true ∧ t.done = true ∧ t.inputs = s.inputs ∧ t.cap = (seen d s).cap := by
  rw [← decodeCaptured_seen d s]
  rcases accept_last d s with ⟨e, hc, h⟩ | ⟨i, hc, h⟩
  · exact ⟨_, h, by rw [hc]; rfl, rfl, rfl, rfl, seen_inputs d s, rfl⟩
  · refine ⟨_, h, ?_, rfl, rfl, rfl, seen_inputs d s, rfl⟩
    rw [hc]
    simp only [decodedOutcome, State.outcome, endBlock_status, endBlock_stickyErr, endBlock_desc, seen_stickyErr]

/-- Settles O30, by `accept_more` and the laws of its three parts. -/
theorem acceptCountsAndCaptures : Obligations.AcceptCountsAndCaptures := by
  intro s d rest
  have hstep := step_of_edge (s := { s with inputs := .edge false true d false :: rest }) rfl
  have hcap := captures_seen d { s with inputs := rest }
  refine ⟨_, hstep.trans (accept_more d _), seen_outcome _ _, seen_inputs _ _, countByte_done _ _,
    nextCnt_toNat _, (seen_syncOk_iff _ _).trans (and_congr_right fun _ => forall_congr' fun hi => ?_),
    hcap.hMin, hcap.hSec, hcap.hSect, hcap.hMode, hcap.sFile, hcap.sChan, hcap.sSubmode, hcap.sCi⟩
  rw [sync_getElem? hi, Option.some.injEq, eq_comm]

/-- A framed block whose header SHP has captured is decoded by COMMIT as by PARSE (R186). -/
theorem decodeCaptured_eq_decode {B : Block} {h : Header} (hf : Framed B) (hh : readHeader B = some h) :
    decodeCaptured 2351 true h = decode B :=
  (decode_of_framed_header hf hh).symm

/-- Settles O31: each clause is one case of `decodeCaptured_by_defect`; from offset 20 on the last byte itself plays no
part. -/
theorem commitChecksInOrder : Obligations.CommitChecksInOrder := by
  intro s d rest
  obtain ⟨t, ht, hout, hcnt, hsync, hdone, hin, hcap⟩ := accept_last_eq d { s with inputs := rest }
  have hstep := step_of_edge (s := { s with inputs := .edge false true d true :: rest }) rfl
  have hcaptures := captures_seen d { s with inputs := rest }
  rw [← hcap] at hcaptures
  refine ⟨t, hstep.trans ht, hcnt, hsync, hdone, hin, hcaptures, ?_⟩
  rcases decodeCaptured_by_defect s.cnt.toNat s.syncOk s.cap with
    ⟨hc, e⟩ | ⟨hc, hs, e⟩ | ⟨hc, hs, hm, e⟩ | ⟨hc, hs, hm, i, e⟩ <;> rw [e] at hout
  -- the length
  · exact ⟨fun _ => outcome_eq_error_iff.1 hout, fun h => absurd h hc, fun h => absurd h hc, fun h => absurd h hc⟩
  -- the sync
  · have hs' : ¬ s.syncOk = true := by rw [hs]; decide
    exact ⟨fun h => absurd hc h, fun _ _ => outcome_eq_error_iff.1 hout, fun _ h => absurd h hs',
      fun _ h => absurd h hs'⟩
  -- the mode
  · have hs' : ¬ s.syncOk = false := by rw [hs]; decide
    exact ⟨fun h => absurd hc h, fun _ h => absurd h hs', fun _ _ _ => outcome_eq_error_iff.1 hout,
      fun _ _ h => absurd hm (Nat.not_le.2 (Nat.lt_succ_of_le h))⟩
  -- the class
  · have hs' : ¬ s.syncOk = false := by rw [hs]; decide
    obtain ⟨hstatus, hsticky, hdesc⟩ := outcome_eq_ok_iff.1 hout
    refine ⟨fun h => absurd hc h, fun _ h => absurd h hs', fun _ _ h => absurd h (Nat.not_le.2 (Nat.lt_succ_of_le hm)),
      fun _ _ _ => ⟨hstatus, hsticky, fun B hf b12 b13 b14 b15 b16 b17 b18 b19 => ?_⟩⟩
    rw [hc, hs, decodeCaptured_eq_decode hf (readHeader_of_bytes b12 b13 b14 b15 b16 b17 b18 b19)] at e
    exact ⟨_, parse_of_ok e s, hdesc.symm⟩

/-- Settles O37, by the cases of a step. -/
theorem resultIsStableBetweenBlocks : Obligations.ResultIsStableBetweenBlocks := by
  intro s t ht hchange
  rcases step_cases s with ⟨-, h⟩ | ⟨v, d, l, rest, hin, -⟩ | ⟨d, l, rest, -, h⟩ | ⟨d, l, rest, hin, h⟩ |
    ⟨B, rest, hin, -⟩ | ⟨p, rest, -, h⟩
  -- nothing presented
  · cases h.symm.trans ht
    exact absurd rfl hchange
  -- RESET
  · exact .inr (.inr ⟨v, d, l, rest, hin⟩)
  -- IDLE
  · cases h.symm.trans ht
    exact absurd rfl hchange
  -- ACCEPT
  · cases l with
    | false =>
      cases (h.trans (accept_more d _)).symm.trans ht
      exact absurd (seen_outcome d _) hchange
    | true => exact .inl ⟨d, rest, hin⟩
  -- PARSE
  · exact .inr (.inl ⟨B, rest, hin⟩)
  -- a host's read
  · rcases hostRead_cases p { s with inputs := rest } with ⟨-, hr⟩ | ⟨-, hr⟩
    · cases (h.trans hr).symm.trans ht
      exact absurd rfl hchange
    · cases (h.trans hr).symm.trans ht

end Sys2Proof.Machine
end

section
/-! PROOFS. The equivalence of the two levels, R190 of spec/44_stream_operations.md: SHP's registers after some bytes of a
block stand for those bytes, and the last byte's COMMIT answers as PARSE of the whole block. -/

namespace Sys2Proof.Machine

open Sys2Proof

/-! ### What SHP knows of the bytes accepted so far -/

/-- The capture register `r` of offset `i` holds that byte of `P`, once `P` reaches so far. -/
def Holds (P : Block) (i : Nat) (r : Byte) : Prop := ∀ b, P[i]? = some b → r = b

/-- The state `s` has accepted the bytes `P` of its block: CNT counts them, SYNC_OK tells whether they agree with the sync
pattern, and the capture registers hold those at their offsets (R28, R29, R30). -/
structure Tracks (P : Block) (s : State) : Prop where
  cnt : s.cnt.toNat = min P.length 2352
  syncOk : s.syncOk = true ↔ ∀ i b, i < syncLen → P[i]? = some b → sync[i]? = some b
  hMin : Holds P 12 s.cap.hMin
  hSec : Holds P 13 s.cap.hSec
  hSect : Holds P 14 s.cap.hSect
  hMode : Holds P 15 s.cap.hMode
  sFile : Holds P 16 s.cap.sFile
  sChan : Holds P 17 s.cap.sChan
  sSubmode : Holds P 18 s.cap.sSubmode
  sCi : Holds P 19 s.cap.sCi

theorem snoc_getElem?_eq_some_iff {P : Block} {d b : Byte} {i : Nat} :
    (P ++ [d])[i]? = some b ↔ P[i]? = some b ∨ (i = P.length ∧ d = b) := by
  rcases lt_trichotomy i P.length with hi | rfl | hi
  · simp [List.getElem?_append_left hi, hi.ne]
  · simp
  · have hi' : (P ++ [d]).length ≤ i := by rw [List.length_append, List.length_singleton]; omega
    simp [List.getElem?_eq_none hi', List.getElem?_eq_none hi.le, hi.ne']

theorem holds_nil (i : Nat) (r : Byte) : Holds [] i r := fun _ h => by cases h

/-- A register keeps holding its byte when one more byte is captured (R184). -/
theorem Holds.snoc {P : Block} {n i : Nat} {r r' d : Byte} (h : Holds P i r) (hn : n = min P.length 2352)
    (hi : i < 2352) (hr : r' = if n = i then d else r) : Holds (P ++ [d]) i r' := by
  intro b hb
  rcases snoc_getElem?_eq_some_iff.1 hb with hb | ⟨rfl, rfl⟩
  · have hlt : i < P.length := (List.getElem?_eq_some_iff.1 hb).1
    rw [hr, if_neg (by omega), h b hb]
  · rw [hr, if_pos (by omega)]

/-- The register of an offset that has been reached holds the block's byte there. -/
theorem Holds.getElem?_append {P Q : Block} {i : Nat} {r : Byte} (h : Holds P i r) (hi : i < P.length) :
    (P ++ Q)[i]? = some r := by
  rw [List.getElem?_append_left hi, List.getElem?_eq_getElem hi, h _ (List.getElem?_eq_getElem hi)]

/-- At the start of a block no byte of it has been accepted (R28, R29). -/
theorem tracks_nil {s : State} (hc : s.cnt = 0) (hs : s.syncOk = true) : Tracks [] s where
  cnt := by rw [hc]; rfl
  syncOk := iff_of_true hs fun _ _ _ h => by cases h
  hMin := holds_nil _ _
  hSec := holds_nil _ _
  hSect := holds_nil _ _
  hMode := holds_nil _ _
  sFile := holds_nil _ _
  sChan := holds_nil _ _
  sSubmode := holds_nil _ _
  sCi := holds_nil _ _

/-- An IDLE step, or a change of the inputs to come, is no byte (R183). -/
theorem Tracks.of_same_registers {P : Block} {s t : State} (tr : Tracks P s) (hcnt : t.cnt = s.cnt)
    (hsync : t.syncOk = s.syncOk) (hcap : t.cap = s.cap) : Tracks P t := by
  obtain ⟨_, _, _, _, _, _, _, _, _, _⟩ := tr
  constructor <;> simpa only [hcnt, hsync, hcap]

/-- A byte that is not the last is one more byte accepted (R184). -/
theorem Tracks.more {P : Block} {s : State} (tr : Tracks P s) (d : Byte) :
    Tracks (P ++ [d]) (countByte s.cnt.toNat (seen d s)) := by
  have hcap := captures_seen d s
  have hcnt := tr.cnt
  refine ⟨?cnt, ?sync, tr.hMin.snoc hcnt (by decide) hcap.hMin, tr.hSec.snoc hcnt (by decide) hcap.hSec,
    tr.hSect.snoc hcnt (by decide) hcap.hSect, tr.hMode.snoc hcnt (by decide) hcap.hMode,
    tr.sFile.snoc hcnt (by decide) hcap.sFile, tr.sChan.snoc hcnt (by decide) hcap.sChan,
    tr.sSubmode.snoc hcnt (by decide) hcap.sSubmode, tr.sCi.snoc hcnt (by decide) hcap.sCi⟩
  case cnt =>
    rw [countByte_cnt, nextCnt_toNat, hcnt, List.length_append, List.length_singleton, blockLen]
    omega
  case sync =>
    rw [countByte_syncOk, seen_syncOk_iff, tr.syncOk]
    have cnt_eq (h : s.cnt.toNat < syncLen ∨ P.length < syncLen) : s.cnt.toNat = P.length := by
      rw [syncLen] at h
      omega
    constructor
    · rintro ⟨hP, hd⟩ i b hi hb
      rcases snoc_getElem?_eq_some_iff.1 hb with hb | ⟨rfl, rfl⟩
      · exact hP i b hi hb
      · rw [cnt_eq (.inr hi)] at hd
        exact hd hi
    · intro h
      refine ⟨fun i b hi hb => h i b hi (snoc_getElem?_eq_some_iff.2 (.inl hb)), fun hi => ?_⟩
      have hlen := cnt_eq (.inl hi)
      exact h _ d hi (snoc_getElem?_eq_some_iff.2 (.inr ⟨hlen, rfl⟩))

/-- With 2351 bytes accepted the block that one more byte ends is framed exactly when SYNC_OK is 1. -/
theorem Tracks.framed_iff {P : Block} {s : State} (tr : Tracks P s) (hl : P.length = 2351) (d : Byte) :
    Framed (P ++ [d]) ↔ s.syncOk = true := by
  have byte {i : Nat} (hi : i < 12) : ∃ b, P[i]? = some b ∧ (P ++ [d])[i]? = some b := by
    have hlt : i < P.length := by omega
    exact ⟨P[i], List.getElem?_eq_getElem hlt, by rw [List.getElem?_append_left hlt, List.getElem?_eq_getElem hlt]⟩
  rw [tr.syncOk]
  constructor
  · rintro ⟨-, hsync⟩ i b hi hb
    obtain ⟨b', hb', happ⟩ := byte hi
    cases hb.symm.trans hb'
    rw [sync_getElem? hi, ← hsync i hi, happ]
  · intro h
    refine ⟨by rw [List.length_append, List.length_singleton, hl], fun i hi => ?_⟩
    obtain ⟨b, hb, happ⟩ := byte hi
    rw [happ, ← h i b hi hb, sync_getElem? hi]

/-- COMMIT decides by its counter, SYNC_OK and the capture registers as the decoder does by the whole block (R186). -/
theorem Tracks.decodeCaptured_eq {P : Block} {s : State} (tr : Tracks P s) (d : Byte) :
    decodeCaptured s.cnt.toNat s.syncOk s.cap = decode (P ++ [d]) := by
  have hlen : (P ++ [d]).length = P.length + 1 := by rw [List.length_append, List.length_singleton]
  have hcnt := tr.cnt
  by_cases hl : P.length = 2351
  · rw [show s.cnt.toNat = 2351 by omega]
    cases hs : s.syncOk with
    | true =>
      have reach {i : Nat} (hi : i < 20) : i < P.length := by omega
      exact decodeCaptured_eq_decode ((tr.framed_iff hl d).2 hs) (readHeader_of_bytes
        (tr.hMin.getElem?_append (reach (by decide))) (tr.hSec.getElem?_append (reach (by decide)))
        (tr.hSect.getElem?_append (reach (by decide))) (tr.hMode.getElem?_append (reach (by decide)))
        (tr.sFile.getElem?_append (reach (by decide))) (tr.sChan.getElem?_append (reach (by decide)))
        (tr.sSubmode.getElem?_append (reach (by decide))) (tr.sCi.getElem?_append (reach (by decide))))
    | false =>
      have hf : ¬ Framed (P ++ [d]) := by rw [tr.framed_iff hl, hs]; decide
      obtain ⟨-, badSync, -⟩ := decodeReportsTheFirstDefect (P ++ [d])
      rw [badSync.2 ⟨by omega, hf⟩]
      rfl
  · obtain ⟨badLength, -⟩ := decodeReportsTheFirstDefect (P ++ [d])
    rw [badLength.2 (by omega), decodeCaptured, if_pos (by rw [blockLen]; omega)]

/-! ### The inputs that present a block -/

/-- `Presents` of a block that is not empty, by its recursion: idle edges, bytes, the last byte (R190). -/
inductive Presenting : List Input → Block → Prop
  | last (d : Byte) : Presenting [.edge false true d true] [d]
  | more {xs : List Input} {Q : Block} (d : Byte) (h : Presenting xs Q) :
      Presenting (.edge false true d false :: xs) (d :: Q)
  | idle {xs : List Input} {Q : Block} (d : Byte) (l : Bool) (h : Presenting xs Q) :
      Presenting (.edge false false d l :: xs) Q

theorem markLast_ne_nil {B : Block} (h : B ≠ []) : markLast B ≠ [] := by
  rcases B with _ | ⟨d, _ | ⟨e, B⟩⟩
  · exact absurd rfl h
  · exact List.cons_ne_nil _ _
  · exact List.cons_ne_nil _ _

/-- Inputs that make SHP accept no byte have no accepting edge among them. -/
theorem accepts_eq_false_of_acceptedBytes {xs : List Input} (h : acceptedBytes xs = []) {x : Input} (hx : x ∈ xs) :
    x.accepts = false := by
  induction xs with
  | nil => cases hx
  | cons y xs ih =>
    obtain ⟨hy, hxs⟩ : y.accepts = false ∧ acceptedBytes xs = [] := by
      cases y with
      | edge rst v d l =>
        rw [acceptedBytes] at h
        split at h
        · cases h
        · exact ⟨eq_false_of_ne_true ‹_›, h⟩
      | parse B => exact ⟨rfl, h⟩
      | read p => exact ⟨rfl, h⟩
    rcases List.mem_cons.1 hx with rfl | hx
    · exact hy
    · exact ih hxs hx

/-- Inputs that present a block that is not empty do so by the recursion of `Presenting` (R190). -/
theorem presenting_of_presents {xs : List Input} {B : Block} (hne : B ≠ []) (h : Presents xs B) : Presenting xs B := by
  induction xs generalizing B with
  | nil => exact absurd h.bytes.symm (markLast_ne_nil hne)
  | cons x xs ih =>
    obtain ⟨no_reset, bytes, ends⟩ := h
    have no_reset' : ∀ y ∈ xs, y.isEdgeNoReset = true := fun y hy => no_reset y (List.mem_cons_of_mem x hy)
    have ends' : ∀ y, xs.getLast? = some y → y.accepts = true :=
      fun y hy => ends y (by rw [List.getLast?_cons, hy]; rfl)
    have hx := no_reset x List.mem_cons_self
    cases x with
    | parse B => cases hx
    | read p => cases hx
    | edge rst v d l =>
      cases rst with
      | true => cases hx
      | false =>
        cases v with
        | false => exact .idle d l (ih hne ⟨no_reset', bytes, ends'⟩)
        | true =>
          rcases B with _ | ⟨e, _ | ⟨f, Q⟩⟩
          · exact absurd rfl hne
          · obtain ⟨hde, hnone⟩ := List.cons.inj bytes
            cases hde
            obtain rfl : xs = [] := by
              by_contra hxs
              have haccepts := ends' _ (List.getLast?_eq_some_getLast hxs)
              rw [accepts_eq_false_of_acceptedBytes hnone (List.getLast_mem hxs)] at haccepts
              cases haccepts
            exact .last d
          · obtain ⟨hde, hrest⟩ := List.cons.inj bytes
            cases hde
            exact .more d (ih (List.cons_ne_nil f Q) ⟨no_reset', hrest, ends'⟩)

/-! ### The simulation -/

/-- A byte that is not the last (R184). -/
theorem step_of_byte {s : State} {d : Byte} {rest : List Input} (h : s.inputs = .edge false true d false :: rest) :
    step s = .next (countByte s.cnt.toNat (seen d { s with inputs := rest })) :=
  step_of_edge h

/-- The rest of a block, presented when SHP has accepted `P` of it, ends with the outcome of the whole block. -/
theorem run_presenting {xs : List Input} {Q : Block} (hp : Presenting xs Q) {P : Block} {s : State} {rest : List Input}
    (tr : Tracks P s) (hin : s.inputs = xs ++ rest) :
    ∃ t, core.run xs.length s = .next t ∧ t.outcome = decodedOutcome (decode (P ++ Q)) s.stickyErr ∧
      t.cnt = 0 ∧ t.syncOk = true ∧ t.done = true ∧ t.inputs = rest := by
  induction hp generalizing P s with
  | last d =>
    obtain ⟨t, ht, hout, hcnt, hsync, hdone, hrest, -⟩ := accept_last_eq d { s with inputs := rest }
    refine ⟨t, (run_succ_next ((step_of_edge hin).trans ht) 0).trans (run_zero t), ?_, hcnt, hsync, hdone, hrest⟩
    rw [hout, ← tr.decodeCaptured_eq d]
  | @more xs Q d h ih =>
    obtain ⟨t, ht, hout, hend⟩ := ih (s := countByte s.cnt.toNat (seen d { s with inputs := xs ++ rest }))
      ((tr.of_same_registers (t := { s with inputs := xs ++ rest }) rfl rfl rfl).more d) (seen_inputs _ _)
    refine ⟨t, (run_succ_next (step_of_byte hin) _).trans ht, ?_, hend⟩
    rw [hout, List.append_assoc, List.singleton_append, countByte_stickyErr, seen_stickyErr]
  | @idle xs Q d l h ih =>
    obtain ⟨t, ht, hend⟩ := ih (s := idleOp { s with inputs := xs ++ rest }) (tr.of_same_registers rfl rfl rfl) rfl
    exact ⟨t, (run_succ_next (step_of_edge hin) _).trans ht, hend⟩

/-- Before the last byte of a block the result is that of before the block (R221, R235). -/
theorem run_presenting_before {xs : List Input} {Q : Block} (hp : Presenting xs Q) {s : State} {rest : List Input}
    (hin : s.inputs = xs ++ rest) {k : Nat} (hk : k < xs.length) :
    ∃ t, core.run k s = .next t ∧ t.outcome = s.outcome := by
  induction hp generalizing s k with
  | last d =>
    obtain rfl : k = 0 := Nat.lt_one_iff.1 hk
    exact ⟨s, run_zero s, rfl⟩
  | @more xs Q d h ih =>
    cases k with
    | zero => exact ⟨s, run_zero s, rfl⟩
    | succ k =>
      obtain ⟨t, ht, hout⟩ := ih (s := countByte s.cnt.toNat (seen d { s with inputs := xs ++ rest }))
        (seen_inputs _ _) (Nat.lt_of_succ_lt_succ hk)
      exact ⟨t, (run_succ_next (step_of_byte hin) k).trans ht, hout.trans (seen_outcome _ _)⟩
  | @idle xs Q d l h ih =>
    cases k with
    | zero => exact ⟨s, run_zero s, rfl⟩
    | succ k =>
      obtain ⟨t, ht, hout⟩ := ih (s := idleOp { s with inputs := xs ++ rest }) rfl (Nat.lt_of_succ_lt_succ hk)
      exact ⟨t, (run_succ_next (step_of_edge hin) k).trans ht, hout⟩

/-- A whole block presented from the start of a block has the outcome of its PARSE (R190). -/
theorem run_block {B : Block} {xs rest : List Input} {s : State} (hc : s.cnt = 0) (hs : s.syncOk = true)
    (hp : Presenting xs B) (hin : s.inputs = xs ++ rest) :
    ∃ t, core.run xs.length s = .next t ∧ t.outcome = decodedOutcome (decode B) s.stickyErr ∧
      t.cnt = 0 ∧ t.syncOk = true ∧ t.done = true ∧ t.inputs = rest :=
  run_presenting hp (tracks_nil hc hs) hin

/-- Settles O32: the simulation from a block's start, and `run_presenting_before`. -/
theorem serialEqualsParse : Obligations.SerialEqualsParse := by
  intro s B xs rest hc hs hne hpres
  have hp := presenting_of_presents hne hpres
  refine ⟨?_, fun k hk => run_presenting_before (s := { s with inputs := xs ++ rest }) hp rfl hk⟩
  obtain ⟨t, ht, hout, hend⟩ := run_block (s := { s with inputs := xs ++ rest }) hc hs hp rfl
  obtain ⟨u, hu, hout'⟩ := parse_outcome B s
  exact ⟨t, u, ht, hu, hout.trans hout'.symm, hend⟩

/-- A stream of blocks from the start of a block: each block's end is the next one's start (R187, R190). -/
theorem run_blocks {xss : List (List Input)} {Bs : List Block} (hp : List.Forall₂ Presenting xss Bs) {s : State}
    (hc : s.cnt = 0) (hs : s.syncOk = true) (hin : s.inputs = xss.flatten) :
    ∃ t u, core.run xss.flatten.length s = .next t ∧ parseAll Bs s = .next u ∧ t.outcome = u.outcome ∧
      t.cnt = 0 ∧ t.syncOk = true := by
  induction hp generalizing s with
  | nil => exact ⟨s, s, rfl, rfl, rfl, hc, hs⟩
  | @cons xs B xss Bs h _ ih =>
    obtain ⟨m, hm, hout, hcm, hsm, -, hinm⟩ := run_block hc hs h hin
    obtain ⟨t, u, ht, hu, heq, hend⟩ := ih hcm hsm hinm
    obtain ⟨v, hv, hv'⟩ := parse_outcome B s
    obtain ⟨w, w', hw, hw', hww'⟩ := parseAll_outcome_congr Bs (hv'.trans hout.symm)
    cases hu.symm.trans hw'
    refine ⟨t, w, ?_, ?_, heq.trans hww'.symm, hend⟩
    · rw [List.flatten_cons, List.length_append]
      exact (run_add hm _).trans ht
    · rw [parseAll, hv]
      exact hw

/-- Settles O33, by induction over the stream. -/
theorem serialProgramEqualsParses : Obligations.SerialProgramEqualsParses := by
  intro Bs xss s hc hs hne hpres
  have hp : List.Forall₂ Presenting xss Bs := by
    induction hpres with
    | nil => exact .nil
    | cons h _ ih =>
      exact .cons (presenting_of_presents (hne _ List.mem_cons_self) h)
        (ih fun B hB => hne B (List.mem_cons_of_mem _ hB))
  obtain ⟨t, u, ht, hu, heq, hend⟩ := run_blocks (s := { s with inputs := xss.flatten }) hp hc hs rfl
  obtain ⟨v, v', hv, hv', hvv'⟩ := parseAll_outcome_congr Bs (s := s) (s' := { s with inputs := xss.flatten }) rfl
  cases hu.symm.trans hv'
  exact ⟨t, v, ht, hv, heq.trans hvv'.symm, hend⟩

/-- Settles O29: a RESET leaves the start of a block, whatever was accepted before it. -/
theorem resetDiscardsThePartialBlock : Obligations.ResetDiscardsThePartialBlock := by
  intro s v l d B xs hne hpres
  obtain ⟨t, ht, hout, -⟩ := run_block (s := resetOp { s with inputs := xs }) (rest := []) rfl rfl
    (presenting_of_presents hne hpres) (List.append_nil xs).symm
  obtain ⟨u, hu, hout'⟩ := parse_outcome B State.reset
  exact ⟨t, u, (run_succ_next (step_of_resetEdge rfl) _).trans ht, hu, hout.trans hout'.symm⟩

end Sys2Proof.Machine
end

section
/-! PROOFS. What the capture registers hold from an earlier block never reaches the host (R33): two machines that differ in
those registers alone, at offsets not yet reached, stay so. -/

namespace Sys2Proof.Machine

open Sys2Proof

/-- The capture registers agree at every offset below `n`, the offsets that the current block has reached. -/
structure AgreeBelow (n : Nat) (h h' : Header) : Prop where
  hMin : 12 < n → h.hMin = h'.hMin
  hSec : 13 < n → h.hSec = h'.hSec
  hSect : 14 < n → h.hSect = h'.hSect
  hMode : 15 < n → h.hMode = h'.hMode
  sFile : 16 < n → h.sFile = h'.sFile
  sChan : 17 < n → h.sChan = h'.sChan
  sSubmode : 18 < n → h.sSubmode = h'.sSubmode
  sCi : 19 < n → h.sCi = h'.sCi

/-- The state `s'` is `s` but for capture registers of offsets that the current block has not reached. -/
def Alike (s s' : State) : Prop := ∃ h, s' = { s with cap := h } ∧ AgreeBelow s.cnt.toNat s.cap h

theorem agreeBelow_zero (h h' : Header) : AgreeBelow 0 h h' := by
  constructor <;> exact fun hn => absurd hn (Nat.not_lt_zero _)

theorem agreeBelow_refl (n : Nat) (h : Header) : AgreeBelow n h h := by
  constructor <;> exact fun _ => rfl

/-- Past the last header byte all capture registers agree. -/
theorem AgreeBelow.eq {n : Nat} {h h' : Header} (ha : AgreeBelow n h h') (hn : 19 < n) : h = h' := by
  obtain ⟨a, b, c, d, e, f, g, i⟩ := ha
  cases h
  cases h'
  simp only [Header.mk.injEq]
  exact ⟨a (by omega), b (by omega), c (by omega), d (by omega), e (by omega), f (by omega), g (by omega), i hn⟩

/-- A register of offset `i` that both machines write or keep still agrees, one byte later. -/
theorem agree_register_succ {n m i : Nat} {r r' t t' d : Byte} (h : i < n → r = r') (hm : m ≤ n + 1)
    (ht : t = if n = i then d else r) (ht' : t' = if n = i then d else r') : i < m → t = t' := by
  intro hi
  rw [ht, ht']
  split_ifs with hni
  · rfl
  · exact h (by omega)

/-- One more byte at offset `n`, captured by both machines (R184). -/
theorem AgreeBelow.captures {n m : Nat} {h h' k k' : Header} {d : Byte} (ha : AgreeBelow n h h') (hm : m ≤ n + 1)
    (hk : Captures n d h k) (hk' : Captures n d h' k') : AgreeBelow m k k' where
  hMin := agree_register_succ ha.hMin hm hk.hMin hk'.hMin
  hSec := agree_register_succ ha.hSec hm hk.hSec hk'.hSec
  hSect := agree_register_succ ha.hSect hm hk.hSect hk'.hSect
  hMode := agree_register_succ ha.hMode hm hk.hMode hk'.hMode
  sFile := agree_register_succ ha.sFile hm hk.sFile hk'.sFile
  sChan := agree_register_succ ha.sChan hm hk.sChan hk'.sChan
  sSubmode := agree_register_succ ha.sSubmode hm hk.sSubmode hk'.sSubmode
  sCi := agree_register_succ ha.sCi hm hk.sCi hk'.sCi

/-- Parts 1 and 2 of ACCEPT treat the other registers alike whatever the capture registers hold (R184). -/
theorem seen_withCap (d : Byte) (s : State) (h : Header) :
    seen d { s with cap := h } = { seen d s with cap := captureByte s.cnt.toNat d h } := by
  unfold seen watchSync
  split <;> rfl

/-- COMMIT reads the capture registers only when the block has reached them all (R186). -/
theorem decodeCaptured_congr {n : Nat} {h h' : Header} (ha : AgreeBelow n h h') (ok : Bool) :
    decodeCaptured n ok h = decodeCaptured n ok h' := by
  by_cases hn : n + 1 = blockLen
  · rw [ha.eq (by rw [blockLen] at hn; omega)]
  · rw [decodeCaptured, decodeCaptured, if_pos hn, if_pos hn]

/-- A byte that is not the last keeps two machines alike. -/
theorem alike_accept_more {s s' : State} (ha : Alike s s') (d : Byte) :
    ∃ t t', accept d false s = .next t ∧ accept d false s' = .next t' ∧ Alike t t' := by
  obtain ⟨h, rfl, hagree⟩ := ha
  refine ⟨_, _, accept_more d s, accept_more d _, captureByte s.cnt.toNat d h, ?_, ?_⟩
  · rw [seen_withCap]
    rfl
  · have hcnt : (countByte s.cnt.toNat (seen d s)).cnt.toNat ≤ s.cnt.toNat + 1 := by
      rw [countByte_cnt, nextCnt_toNat]
      exact Nat.min_le_left _ _
    exact hagree.captures hcnt (captures_seen d s) (captures_captureByte _ d h)

/-- A last byte keeps two machines alike: CNT is then 0, so that no offset has been reached. -/
theorem alike_accept_last {s s' : State} (ha : Alike s s') (d : Byte) :
    ∃ t t', accept d true s = .next t ∧ accept d true s' = .next t' ∧ Alike t t' := by
  obtain ⟨h, rfl, hagree⟩ := ha
  obtain ⟨t, ht, hout, hcnt, hsync, hdone, hin, hcap⟩ := accept_last_eq d s
  obtain ⟨t', ht', hout', hcnt', hsync', hdone', hin', hcap'⟩ := accept_last_eq d { s with cap := h }
  refine ⟨t, t', ht, ht', t'.cap, ?_, hcnt ▸ agreeBelow_zero _ _⟩
  have heq : t.outcome = t'.outcome := by rw [hout, hout', decodeCaptured_congr hagree]
  obtain ⟨hstatus, hsticky, hdesc⟩ : t.status = t'.status ∧ t.stickyErr = t'.stickyErr ∧ t.desc = t'.desc := by
    simpa only [State.outcome, Prod.mk.injEq] using heq
  rw [hstatus, hsticky, hdesc, hcnt.trans hcnt'.symm, hsync.trans hsync'.symm, hdone.trans hdone'.symm,
    hin.trans hin'.symm]

/-- A clock edge keeps two machines alike (R181). -/
theorem alike_clockEdge {s s' : State} (ha : Alike s s') (rst v : Bool) (d : Byte) (l : Bool) :
    ∃ t t', clockEdge rst v d l s = .next t ∧ clockEdge rst v d l s' = .next t' ∧ Alike t t' := by
  cases rst with
  | true =>
    obtain ⟨h, rfl, -⟩ := ha
    exact ⟨_, _, rfl, rfl, _, rfl, agreeBelow_refl _ _⟩
  | false =>
    cases v with
    | false =>
      obtain ⟨h, rfl, hagree⟩ := ha
      exact ⟨_, _, rfl, rfl, h, rfl, hagree⟩
    | true =>
      cases l with
      | false => exact alike_accept_more ha d
      | true => exact alike_accept_last ha d

/-- A clock edge leaves the inputs to come (R34). -/
theorem clockEdge_inputs {rst v l : Bool} {d : Byte} {s t : State} (ht : clockEdge rst v d l s = .next t) :
    t.inputs = s.inputs := by
  cases rst with
  | true => cases ht; rfl
  | false =>
    cases v with
    | false => cases ht; rfl
    | true =>
      cases l with
      | false =>
        cases (accept_more d s).symm.trans ht
        exact seen_inputs d s
      | true =>
        obtain ⟨u, hu, -, -, -, -, hin, -⟩ := accept_last_eq d s
        cases hu.symm.trans ht
        exact hin

/-- Clock edges keep two machines alike. -/
theorem alike_run {xs : List Input} (hedges : ∀ x ∈ xs, x.isEdge = true) {s s' : State} (ha : Alike s s')
    (hin : s.inputs = xs) {k : Nat} (hk : k ≤ xs.length) :
    ∃ t t', core.run k s = .next t ∧ core.run k s' = .next t' ∧ Alike t t' := by
  induction k generalizing xs s s' with
  | zero => exact ⟨s, s', run_zero s, run_zero s', ha⟩
  | succ k ih =>
    cases xs with
    | nil => cases hk
    | cons x xs =>
      cases x with
      | parse B => cases hedges _ List.mem_cons_self
      | read p => cases hedges _ List.mem_cons_self
      | edge rst v d l =>
        have ha' : Alike { s with inputs := xs } { s' with inputs := xs } := by
          obtain ⟨h, rfl, hagree⟩ := ha
          exact ⟨h, rfl, hagree⟩
        have hin' : s'.inputs = .edge rst v d l :: xs := by
          obtain ⟨h, rfl, -⟩ := ha
          exact hin
        obtain ⟨m, m', hm, hm', ham⟩ := alike_clockEdge ha' rst v d l
        obtain ⟨t, t', ht, ht', hat⟩ := ih (fun y hy => hedges y (List.mem_cons_of_mem _ hy)) ham (clockEdge_inputs hm)
          (Nat.le_of_succ_le_succ hk)
        exact ⟨t, t', (run_succ_next ((step_of_edge hin).trans hm) k).trans ht,
          (run_succ_next ((step_of_edge hin').trans hm') k).trans ht', hat⟩

/-- Settles O34: with CNT 0 no capture register has been reached, so two such machines are alike. -/
theorem captureRegistersLeakNothing : Obligations.CaptureRegistersLeakNothing := by
  intro s h xs hc hedges k hk
  have ha : Alike { s with inputs := xs } { s with inputs := xs, cap := h } := by
    refine ⟨h, rfl, ?_⟩
    rw [hc]
    exact agreeBelow_zero _ _
  obtain ⟨t, t', ht, ht', h', rfl, -⟩ := alike_run hedges ha rfl hk
  exact ⟨t, _, ht, ht', rfl, rfl, rfl, rfl⟩

end Sys2Proof.Machine
end

section
/-! PROOFS. The field operations of spec/40, 41, 42 and 43: what each writes, and the blocks that run it. -/

namespace Sys2Proof.Machine

open Sys2Proof

/-! ### Values -/

/-- A byte whose high nibble is `t` and low nibble `u`. -/
theorem bcd2bin_ofNibbles {t u : Nat} (ht : t < 16) (hu : u < 16) :
    (bcd2bin (BitVec.ofNat 8 (16 * t + u))).toNat = 10 * t + u := by
  rw [bcd2bin_toNat, BitVec.toNat_ofNat]
  omega

/-- Settles O8: tens and units of a packed byte are the quotient and the remainder by ten; 150 and more need the high
nibble 15. -/
theorem packedDecimalDecodesInjectively : Obligations.PackedDecimalDecodesInjectively := by
  refine ⟨fun b c bt bu ct cu h => ?_, by decide, by decide, fun n => ⟨fun hn => ?_, ?_⟩⟩
  · have hval := congrArg BitVec.toNat h
    rw [bcd2bin_toNat, bcd2bin_toNat] at hval
    exact BitVec.eq_of_toNat_eq (by omega)
  · by_cases h150 : n < 150
    · exact ⟨_, (bcd2bin_ofNibbles (t := n / 10) (u := n % 10) (by omega) (by omega)).trans (by omega)⟩
    · exact ⟨_, (bcd2bin_ofNibbles (t := 15) (u := n - 150) (by omega) (by omega)).trans (by omega)⟩
  · rintro ⟨b, rfl⟩
    exact Nat.lt_succ_of_le (bcd2bin_le b)

/-- A bit of a byte, read through its own mask (R136 to R143). -/
theorem getLsbD_eq_mask (b : Byte) {i : Nat} (hi : i < 8) :
    b.getLsbD i = decide (b &&& BitVec.twoPow 8 i ≠ 0) := by
  have hne : BitVec.twoPow 8 i ≠ 0 := fun h => by
    have hbit := BitVec.getLsbD_twoPow (w := 8) i i
    rw [h] at hbit
    simp [hi] at hbit
  rw [BitVec.and_twoPow]
  cases b.getLsbD i
  · rfl
  · exact (decide_eq_true hne).symm

/-- The form through the mask of bit 5 (R141). -/
theorem formOf_eq_mask (b : Byte) : formOf b = if b &&& 0x20 = 0 then 1 else 2 := by
  simp only [formOf_eq, and_form2Mask_eq_zero_iff]
  cases b.getLsbD 5 <;> rfl

/-- The seven flags that are bits, each through its own mask. -/
theorem flags_eq_masks (b : Byte) :
    eorOf b = decide (b &&& 0x01 ≠ 0) ∧ videoOf b = decide (b &&& 0x02 ≠ 0) ∧ audioOf b = decide (b &&& 0x04 ≠ 0) ∧
    dataOf b = decide (b &&& 0x08 ≠ 0) ∧ triggerOf b = decide (b &&& 0x10 ≠ 0) ∧
    realtimeOf b = decide (b &&& 0x40 ≠ 0) ∧ eofOf b = decide (b &&& 0x80 ≠ 0) :=
  ⟨getLsbD_eq_mask b (i := 0) (by decide), getLsbD_eq_mask b (i := 1) (by decide),
   getLsbD_eq_mask b (i := 2) (by decide), getLsbD_eq_mask b (i := 3) (by decide),
   getLsbD_eq_mask b (i := 4) (by decide), getLsbD_eq_mask b (i := 6) (by decide),
   getLsbD_eq_mask b (i := 7) (by decide)⟩

/-- The filler predicate of a mode 2 block is the comparison with 32: 32 has bit 5 set (R165). -/
theorem fillerOf_mode2 (b : Byte) : fillerOf 2 (some b) = decide (b = 32) := by
  by_cases h : b = 32
  · subst h; decide
  · rw [decide_eq_false h, fillerOf, beq_eq_false_iff_ne.2 h]
    simp

theorem fillerOf_mode2_toNat (b : Byte) : fillerOf 2 (some b) = decide (b.toNat = 32) := by
  rw [fillerOf_mode2]
  exact decide_eq_decide.2 ⟨fun h => by rw [h]; rfl, fun h => BitVec.eq_of_toNat_eq h⟩

/-- The mode field of a mode byte that is legal (R121). -/
theorem modeOf_of_le {b : Byte} (hb : b.toNat ≤ 2) : ∃ m, modeOf b = some m ∧ m.toNat = b.toNat := by
  have hcases : b = 0 ∨ b = 1 ∨ b = 2 := by bv_omega
  rcases hcases with rfl | rfl | rfl <;> exact ⟨_, rfl, rfl⟩

/-- Any other mode byte has none. -/
theorem modeOf_of_ge {b : Byte} (hb : 3 ≤ b.toNat) : modeOf b = none := by
  have hcases : ¬(b = 0 ∨ b = 1 ∨ b = 2) := by bv_omega
  rw [modeOf, if_neg hcases]

/-- EXT.MODE of 3 to 255 is the error entry of UnknownMode (R121). -/
theorem exec_extMode_of_ge {b : Byte} (hb : 3 ≤ b.toNat) (s : State) :
    exec (.extMode b) s = .next (raiseError .unknownMode s) := by
  show Host.Outcome.next (putMode b s) = _
  rw [putMode, modeOf_of_ge hb]

/-! ### The blocks that run them -/

/-- The field operations of an accepted block, by its header: all seventeen for mode 2, five for the other modes. -/
theorem fieldOps_of_decode {B : Block} {i : Instr} (hd : decode B = .ok i) : ∃ h, readHeader B = some h ∧
    ((h.hMode ≠ 2 ∧ fieldOps i =
        [.decMin h.hMin, .decSec h.hSec, .decSect h.hSect, .extMode h.hMode, .isFiller h.hMode none]) ∨
     (h.hMode = 2 ∧ fieldOps i =
        fieldOps.mode2Ops h.hMin h.hSec h.hSect h.sFile h.sChan h.sSubmode h.sCi)) := by
  obtain ⟨-, -, h, hh, hi⟩ := decode_ok_cases hd
  rcases hi with ⟨hm, rfl⟩ | ⟨hm, rfl⟩ | ⟨hm, -, rfl⟩ | ⟨hm, -, rfl⟩
  · exact ⟨h, hh, .inl ⟨by rw [hm]; decide, by rw [hm]; rfl⟩⟩
  · exact ⟨h, hh, .inl ⟨by rw [hm]; decide, by rw [hm]; rfl⟩⟩
  · exact ⟨h, hh, .inr ⟨hm, rfl⟩⟩
  · exact ⟨h, hh, .inr ⟨hm, rfl⟩⟩

/-- An accepted block that is not of mode 2 leaves the XA registers absent (R157, R158). -/
theorem xaEmpty_of_decode {B : Block} {i : Instr} (hd : decode B = .ok i) (h2 : B[15]? ≠ some 2) :
    (classDescriptor i).xaEmpty = true := by
  obtain ⟨-, -, h, hh, hi⟩ := decode_ok_cases hd
  obtain ⟨-, -, -, h15, -⟩ := readHeader_eq_some hh
  rcases hi with ⟨-, rfl⟩ | ⟨-, rfl⟩ | ⟨hm, -⟩ | ⟨hm, -⟩
  · rfl
  · rfl
  · exact absurd (hm ▸ h15) h2
  · exact absurd (hm ▸ h15) h2

/-- The XA registers one by one, when the group is empty. -/
theorem xaEmpty_iff (d : Descriptor) : d.xaEmpty = true ↔
    d.file = none ∧ d.channel = none ∧ d.submode = none ∧ d.codinginfo = none ∧ d.eor = none ∧ d.typeVideo = none ∧
    d.typeAudio = none ∧ d.typeData = none ∧ d.trigger = none ∧ d.form = none ∧ d.realtime = none ∧ d.eof = none := by
  simp only [Descriptor.xaEmpty, Bool.and_eq_true, Option.isNone_iff_eq_none, and_assoc]

/-- Settles O9: the operations' effects by computation, their operands by the block's header. -/
theorem timecodeDecodersWriteTheirRegister : Obligations.TimecodeDecodersWriteTheirRegister := by
  refine ⟨fun b s => ⟨bcd2bin b, bcd2bin_toNat b, rfl, rfl, rfl⟩, fun B i b hd => ?_,
    fun B e s hd => ⟨_, parse_of_error hd s, rfl, rfl, rfl⟩⟩
  obtain ⟨h, hh, hops⟩ := fieldOps_of_decode hd
  obtain ⟨h12, h13, h14, -⟩ := readHeader_eq_some hh
  rw [h12, h13, h14]
  rcases hops with ⟨-, hops⟩ | ⟨-, hops⟩ <;> simp [hops, fieldOps.mode2Ops, eq_comm]

/-- Settles O10: by the values of `modeOf`, and for a whole block by the first defect of R205. -/
theorem extModeWritesOrRaises : Obligations.ExtModeWritesOrRaises := by
  refine ⟨fun b s hb => ?_, fun b s hb => exec_extMode_of_ge hb s, fun B i b hd => ?_, fun B b s hf h15 hb => ?_,
    fun B s hf => ?_⟩
  · obtain ⟨m, hm, hval⟩ := modeOf_of_le hb
    refine ⟨m, hval, ?_⟩
    show Host.Outcome.next (putMode b s) = _
    rw [putMode, hm]
    rfl
  · obtain ⟨h, hh, hops⟩ := fieldOps_of_decode hd
    obtain ⟨-, -, -, h15, -⟩ := readHeader_eq_some hh
    rw [h15]
    rcases hops with ⟨-, hops⟩ | ⟨hm, hops⟩
    · simp [hops, eq_comm]
    · simp [hops, hm, fieldOps.mode2Ops, eq_comm]
  · obtain ⟨-, -, unknownMode, -⟩ := decodeReportsTheFirstDefect B
    rw [parse_of_error (unknownMode.2 ⟨hf, b, h15, hb⟩), exec_extMode_of_ge hb]
  · rcases decode_by_defect B with ⟨-, e⟩ | ⟨-, -, e⟩ | ⟨hf', -⟩ | ⟨hf', -⟩
    · exact ⟨_, parse_of_error e s, .inl rfl⟩
    · exact ⟨_, parse_of_error e s, .inr rfl⟩
    · exact absurd hf' hf
    · exact absurd hf' hf

/-- Settles O11, in the same way. -/
theorem extractorCopiesItsField : Obligations.ExtractorCopiesItsField := by
  refine ⟨fun b s => ⟨channelOf b, channelOf_toNat b, rfl, rfl, rfl, rfl⟩, fun B i b hd => ?_, fun B i s hd h2 => ?_⟩
  · obtain ⟨h, hh, hops⟩ := fieldOps_of_decode hd
    obtain ⟨-, -, -, h15, h16, h17, h18, h19⟩ := readHeader_eq_some hh
    rw [h15, h16, h17, h18, h19]
    rcases hops with ⟨hm, hops⟩ | ⟨hm, hops⟩
    · simp only [Option.some.injEq, hm, false_and, iff_false]
      simp [hops]
    · simp [hops, hm, fieldOps.mode2Ops, eq_comm]
  · obtain ⟨file, channel, submode, codinginfo, -⟩ := (xaEmpty_iff _).1 (xaEmpty_of_decode hd h2)
    exact ⟨_, exec_class (decode_ok hd).1 s, file, channel, submode, codinginfo⟩

/-- Settles O12: each flag by its own mask, the operands and the absence as for the extractor. -/
theorem flagDecodersReadTheirOwnBit : Obligations.FlagDecodersReadTheirOwnBit := by
  refine ⟨fun b s => ?_, fun B i b hd => ?_, fun B i s hd h2 => ?_⟩
  · obtain ⟨eor, video, audio, data, trigger, realtime, eof⟩ := flags_eq_masks b
    rw [← eor, ← video, ← audio, ← data, ← trigger, ← formOf_eq_mask, ← realtime, ← eof]
    exact ⟨rfl, rfl, rfl, rfl, rfl, rfl, rfl, rfl⟩
  · obtain ⟨h, hh, hops⟩ := fieldOps_of_decode hd
    obtain ⟨-, -, -, h15, -, -, h18, -⟩ := readHeader_eq_some hh
    rw [h15, h18]
    rcases hops with ⟨hm, hops⟩ | ⟨hm, hops⟩
    · simp only [Option.some.injEq, hm, false_and, iff_false]
      simp [hops]
    · simp [hops, hm, fieldOps.mode2Ops, eq_comm]
  · obtain ⟨-, -, -, -, hflags⟩ := (xaEmpty_iff _).1 (xaEmpty_of_decode hd h2)
    exact ⟨_, exec_class (decode_ok hd).1 s, hflags⟩

/-- Settles O13: by the class of the block; a block of form 1 has a submode byte other than 32. -/
theorem fillerIsAnExactComparison : Obligations.FillerIsAnExactComparison := by
  refine ⟨fun s => ⟨rfl, rfl, fun b => ?_⟩, fun B i s hd => ?_⟩
  · rw [← fillerOf_mode2_toNat]
    rfl
  · obtain ⟨-, -, h, hh, hi⟩ := decode_ok_cases hd
    obtain ⟨-, -, -, h15, -, -, h18, -⟩ := readHeader_eq_some hh
    rw [h15, h18]
    rcases hi with ⟨hm, rfl⟩ | ⟨hm, rfl⟩ | ⟨hm, -, rfl⟩ | ⟨hm, -, rfl⟩
    · exact ⟨_, true, rfl, rfl, by simp [hm]⟩
    · exact ⟨_, false, rfl, rfl, by simp [hm]⟩
    · exact ⟨_, _, rfl, rfl, by rw [fillerOf_mode2]; simp [hm]⟩
    · exact ⟨_, _, rfl, rfl, by rw [fillerOf_mode2]; simp [hm]⟩

end Sys2Proof.Machine
end

section
/-! PROOFS. The four sector classes and PARSE, spec/43_sector_classes.md: the whole effect of each class (R157 to R160), the
blocks that run it (R155), the ranges (R161), the reconstruction law (R144) and the presence of the groups (R23). -/

namespace Sys2Proof.Machine

open Sys2Proof

/-! ### PARSE runs the class -/

/-- A PARSE of an accepted block runs its class (R155). -/
theorem parse_eq_exec {B : Block} {i : Instr} (hd : decode B = .ok i) (s : State) : parse B s = exec i s := by
  rw [parse, hd]
  rfl

/-- A framed block runs the class that its header selects (R83, R155). -/
theorem parse_of_framed {B : Block} {h : Header} {i : Instr} (hf : Framed B) (hh : readHeader B = some h)
    (hs : selectClass h = .ok i) (s : State) : parse B s = exec i s :=
  parse_eq_exec ((decode_of_framed_header hf hh).trans hs) s

/-- Settles O18: the four cases of `decode_by_defect`, each with the outcome of its answer. -/
theorem parseRunsTheClassOrRaises : Obligations.ParseRunsTheClassOrRaises := by
  intro B s
  obtain ⟨t, ht, hout, hdone, hcnt, hsync, hcap, hin⟩ := parse_eq B s
  refine ⟨t, ht, hdone, hcnt, hsync, hcap, hin, ?_⟩
  rcases decode_by_defect B with ⟨hl, e⟩ | ⟨hl, hf, e⟩ | ⟨hf, ⟨m, h15, hm⟩, e⟩ | ⟨hf, ⟨m, h15, hm⟩, i, e⟩ <;>
    rw [e] at hout
  -- the length
  · exact ⟨fun _ => outcome_eq_error_iff.1 hout, fun h => absurd h hl, fun hf => absurd hf.length hl,
      fun hf => absurd hf.length hl⟩
  -- the sync
  · exact ⟨fun h => absurd hl h, fun _ _ => outcome_eq_error_iff.1 hout, fun h => absurd h hf, fun h => absurd h hf⟩
  -- the mode
  · refine ⟨fun h => absurd hf.length h, fun _ h => absurd hf h, fun _ _ _ _ => outcome_eq_error_iff.1 hout,
      fun _ m' h15' hm' => ?_⟩
    cases h15.symm.trans h15'
    omega
  -- the class
  · refine ⟨fun h => absurd hf.length h, fun _ h => absurd hf h, fun _ m' h15' hm' => ?_, fun _ _ _ _ => ?_⟩
    · cases h15.symm.trans h15'
      omega
    · obtain ⟨hstatus, hsticky, -⟩ := outcome_eq_ok_iff.1 hout
      exact ⟨hstatus, hsticky, i, e, (parse_eq_exec e s).symm.trans ht⟩

/-! ### The classes -/

/-- Settles O14, by the class's own descriptor and the mode byte 0. -/
theorem modeZeroSector : Obligations.ModeZeroSector := by
  refine ⟨fun mm ss ff s => ⟨bcd2bin mm, bcd2bin ss, bcd2bin ff, bcd2bin_toNat mm, bcd2bin_toNat ss, bcd2bin_toNat ff,
    exec_class rfl s⟩, fun B s hf hmode => ?_⟩
  obtain ⟨h, hh⟩ := readHeader_of_framed hf
  obtain ⟨h12, h13, h14, h15, -⟩ := readHeader_eq_some hh
  have hm : h.hMode = 0 := Option.some.inj (h15.symm.trans hmode)
  exact ⟨h.hMin, h.hSec, h.hSect, h12, h13, h14, parse_of_framed hf hh (by rw [selectClass, hm]; rfl) s⟩

/-- Settles O15, in the same way, with the mode byte 1. -/
theorem modeOneSector : Obligations.ModeOneSector := by
  refine ⟨fun mm ss ff s => ⟨bcd2bin mm, bcd2bin ss, bcd2bin ff, bcd2bin_toNat mm, bcd2bin_toNat ss, bcd2bin_toNat ff,
    exec_class rfl s⟩, fun B s hf hmode => ?_⟩
  obtain ⟨h, hh⟩ := readHeader_of_framed hf
  obtain ⟨h12, h13, h14, h15, -⟩ := readHeader_eq_some hh
  have hm : h.hMode = 1 := Option.some.inj (h15.symm.trans hmode)
  exact ⟨h.hMin, h.hSec, h.hSect, h12, h13, h14, parse_of_framed hf hh (by rw [selectClass, hm]; rfl) s⟩

/-- The header of a framed mode 2 block, its submode byte named (R83). -/
theorem readHeader_of_mode2 {B : Block} {sm : Byte} (hf : Framed B) (hmode : B[15]? = some 2) (hsm : B[18]? = some sm) :
    ∃ mm ss ff f c ci, readHeader B = some ⟨mm, ss, ff, 2, f, c, sm, ci⟩ := by
  obtain ⟨h, hh⟩ := readHeader_of_framed hf
  obtain ⟨-, -, -, h15, -, -, h18, -⟩ := readHeader_eq_some hh
  obtain ⟨mm, ss, ff, m, f, c, sm', ci⟩ := h
  cases h15.symm.trans hmode
  cases h18.symm.trans hsm
  exact ⟨mm, ss, ff, f, c, ci, hh⟩

/-- Settles O16: bit 5 at 0 makes the form 1 and the byte other than 32. -/
theorem modeTwoFormOneSector : Obligations.ModeTwoFormOneSector := by
  refine ⟨fun mm ss ff f c sm ci s hsm => ?_, fun B s sm hf hmode h18 hsm => ?_⟩
  · refine ⟨bcd2bin mm, bcd2bin ss, bcd2bin ff, channelOf c, bcd2bin_toNat mm, bcd2bin_toNat ss, bcd2bin_toNat ff,
      channelOf_toNat c, ?_⟩
    have hform : formOf sm = 1 := by rw [formOf_eq_mask, if_pos hsm]
    have hfill : fillerOf 2 (some sm) = false := by
      rw [fillerOf_mode2, decide_eq_false_iff_not]
      rintro rfl
      exact absurd hsm (by decide)
    obtain ⟨eor, video, audio, data, trigger, realtime, eof⟩ := flags_eq_masks sm
    rw [← eor, ← video, ← audio, ← data, ← trigger, ← realtime, ← eof,
      exec_class (i := .secM2F1 mm ss ff f c sm ci) rfl s, classDescriptor, classDescriptor.mode2, hform, hfill]
  · obtain ⟨mm, ss, ff, f, c, ci, hh⟩ := readHeader_of_mode2 hf hmode h18
    obtain ⟨h12, h13, h14, -, h16, h17, -, h19⟩ := readHeader_eq_some hh
    have hbit : form2Bit sm = false := (and_form2Mask_eq_zero_iff sm).1 hsm
    exact ⟨mm, ss, ff, f, c, ci, h12, h13, h14, h16, h17, h19,
      parse_of_framed hf hh (by simp [selectClass, hbit]) s⟩

/-- Settles O17: bit 5 at 1 makes the form 2. -/
theorem modeTwoFormTwoSector : Obligations.ModeTwoFormTwoSector := by
  refine ⟨fun mm ss ff f c sm ci s hsm => ?_, fun B s sm hf hmode h18 hsm => ?_⟩
  · refine ⟨bcd2bin mm, bcd2bin ss, bcd2bin ff, channelOf c, bcd2bin_toNat mm, bcd2bin_toNat ss, bcd2bin_toNat ff,
      channelOf_toNat c, ?_⟩
    have hform : formOf sm = 2 := by rw [formOf_eq_mask, if_neg hsm]
    obtain ⟨eor, video, audio, data, trigger, realtime, eof⟩ := flags_eq_masks sm
    rw [← eor, ← video, ← audio, ← data, ← trigger, ← realtime, ← eof, ← fillerOf_mode2_toNat,
      exec_class (i := .secM2F2 mm ss ff f c sm ci) rfl s, classDescriptor, classDescriptor.mode2, hform]
    rfl
  · obtain ⟨mm, ss, ff, f, c, ci, hh⟩ := readHeader_of_mode2 hf hmode h18
    obtain ⟨h12, h13, h14, -, h16, h17, -, h19⟩ := readHeader_eq_some hh
    have hbit : form2Bit sm = true := eq_true_of_ne_false (mt (and_form2Mask_eq_zero_iff sm).2 hsm)
    exact ⟨mm, ss, ff, f, c, ci, h12, h13, h14, h16, h17, h19,
      parse_of_framed hf hh (by simp [selectClass, hbit]) s⟩

/-- Settles O22: `exec_class` against the computed run of the operations; for modes 0 and 1 the claim says nothing of
the XA registers. -/
theorem classRunsItsFieldOperations : Obligations.ClassRunsItsFieldOperations := by
  intro i s hc hw
  cases i with
  | secM0 mm ss ff =>
    exact ⟨_, _, exec_class hc s, rfl, rfl, rfl, rfl, rfl, rfl, fun h => absurd (Option.some.inj h) (by decide)⟩
  | secM1 mm ss ff =>
    exact ⟨_, _, exec_class hc s, rfl, rfl, rfl, rfl, rfl, rfl, fun h => absurd (Option.some.inj h) (by decide)⟩
  | secM2F1 mm ss ff f c sm ci =>
    exact ⟨_, _, exec_class hc s, rfl, rfl, rfl, rfl, rfl, rfl,
      fun _ => ⟨rfl, rfl, rfl, rfl, rfl, rfl, rfl, rfl, rfl, rfl, rfl, rfl⟩⟩
  | secM2F2 mm ss ff f c sm ci =>
    exact ⟨_, _, exec_class hc s, rfl, rfl, rfl, rfl, rfl, rfl,
      fun _ => ⟨rfl, rfl, rfl, rfl, rfl, rfl, rfl, rfl, rfl, rfl, rfl, rfl⟩⟩
  | _ => cases hc

/-! ### The ranges -/

/-- The ranges of a class lie inside the block, in the order data, checksum, ecc, and do not overlap (R161). -/
theorem classDescriptor_ranges_apart {i : Instr} (hc : i.isClass = true) :
    (∀ len, (classDescriptor i).dataLen = some len → len.toNat = 0 ∨ len.toNat = 2048 ∨ len.toNat = 2324) ∧
    (∀ off len, (classDescriptor i).dataOff = some off → (classDescriptor i).dataLen = some len →
      off.toNat + len.toNat ≤ 2352 ∧ ∀ o, ((classDescriptor i).csumOff = some o ∨ (classDescriptor i).eccOff = some o) →
        off.toNat + len.toNat ≤ o.toNat) ∧
    (∀ off len, (classDescriptor i).csumOff = some off → (classDescriptor i).csumLen = some len →
      off.toNat + len.toNat ≤ 2352 ∧ ∀ o, (classDescriptor i).eccOff = some o → off.toNat + len.toNat ≤ o.toNat) ∧
    (∀ off len, (classDescriptor i).eccOff = some off → (classDescriptor i).eccLen = some len →
      off.toNat + len.toNat = 2352) := by
  cases i with
  | secM0 mm ss ff => simp [classDescriptor, Descriptor.absent]
  | secM1 mm ss ff => simp [classDescriptor, or_imp, forall_and]
  | secM2F1 mm ss ff f c sm ci => simp [classDescriptor, or_imp, forall_and]
  | secM2F2 mm ss ff f c sm ci => simp [classDescriptor, classDescriptor.mode2, Descriptor.absent]
  | _ => cases hc

/-- Settles O24: the ranges by the class that the block's bytes select. -/
theorem rangesDependOnTheClassAlone : Obligations.RangesDependOnTheClassAlone := by
  intro B s hf m sm h15 hm h18
  rcases decode_of_framed hf h15 hm h18 with ⟨rfl, mm, ss, ff, hd⟩ | ⟨rfl, mm, ss, ff, hd⟩ |
    ⟨rfl, hsm, mm, ss, ff, f, c, ci, hd⟩ | ⟨rfl, hsm, mm, ss, ff, f, c, ci, hd⟩
  · exact ⟨_, parse_of_ok hd s, rfl, classDescriptor_ranges_apart rfl⟩
  · exact ⟨_, parse_of_ok hd s, rfl, classDescriptor_ranges_apart rfl⟩
  · exact ⟨_, parse_of_ok hd s, by rw [if_pos hsm]; rfl, classDescriptor_ranges_apart rfl⟩
  · exact ⟨_, parse_of_ok hd s, by rw [if_neg hsm]; rfl, classDescriptor_ranges_apart rfl⟩

/-! ### The reconstruction law -/

/-- A byte is the weighted sum of its bits. -/
theorem byte_eq_sum_of_bits (b : Byte) :
    (b.getLsbD 0).toNat + 2 * (b.getLsbD 1).toNat + 4 * (b.getLsbD 2).toNat + 8 * (b.getLsbD 3).toNat +
      16 * (b.getLsbD 4).toNat + 32 * (b.getLsbD 5).toNat + 64 * (b.getLsbD 6).toNat + 128 * (b.getLsbD 7).toNat =
    b.toNat := by
  have hb := b.isLt
  simp only [BitVec.getLsbD, Nat.toNat_testBit]
  omega

/-- FORM less one is bit 5 (R141). -/
theorem formOf_toNat_sub_one (b : Byte) : (formOf b).toNat - 1 = (b.getLsbD 5).toNat := by
  rw [formOf_eq]
  cases b.getLsbD 5 <;> rfl

/-- The flags of a mode 2 block rebuild its submode byte (R144). -/
theorem submodeFromFlags_mode2 (mm ss ff f c sm ci : Byte) :
    (classDescriptor.mode2 mm ss ff f c sm ci).submodeFromFlags = some sm.toNat := by
  rw [← byte_eq_sum_of_bits sm, ← formOf_toNat_sub_one sm]
  rfl

/-- Settles O26, by the reconstruction law of the two mode 2 classes. -/
theorem flagsRebuildTheSubmode : Obligations.FlagsRebuildTheSubmode := by
  intro B s sm hf hmode h18
  rcases decode_of_framed hf hmode (by decide) h18 with ⟨h0, -⟩ | ⟨h1, -⟩ |
    ⟨-, -, mm, ss, ff, f, c, ci, hd⟩ | ⟨-, -, mm, ss, ff, f, c, ci, hd⟩
  · exact absurd h0 (by decide)
  · exact absurd h1 (by decide)
  · exact ⟨_, parse_of_ok hd s, rfl, rfl, submodeFromFlags_mode2 mm ss ff f c sm ci⟩
  · exact ⟨_, parse_of_ok hd s, rfl, rfl, submodeFromFlags_mode2 mm ss ff f c sm ci⟩

/-! ### The presence of the groups -/

/-- Without the HDR group no group is present (R23). -/
theorem absent_of_hdrAbsent {s : State} (h : hdrPresent s = false) :
    hdrPresent s = false ∧ xaPresent s = false ∧ csumPresent s = false ∧ eccPresent s = false := by
  simp [xaPresent, csumPresent, eccPresent, h]

/-- An error leaves no HDR group (R23, R206). -/
theorem hdrPresent_raiseError (e : BlockError) (s : State) : hdrPresent (raiseError e s) = false := by
  cases e <;> rfl

/-- Settles O39: STATUS decides after a RESET or an error, the class after a success. -/
theorem presenceFollowsTheClass : Obligations.PresenceFollowsTheClass := by
  refine ⟨fun s => absent_of_hdrAbsent rfl, fun B s => ?_⟩
  rcases parse_cases B s with ⟨e, he, h⟩ | ⟨i, hi, h⟩
  · refine ⟨_, h, fun _ => absent_of_hdrAbsent (hdrPresent_raiseError e s), fun m sm hf h15 _ hm => ?_⟩
    obtain ⟨-, -, -, accepted, -⟩ := decodeReportsTheFirstDefect B
    obtain ⟨i, hi⟩ := accepted.2 ⟨hf, m, h15, hm⟩
    cases he.symm.trans hi
  · have accepted : ¬ ∃ e, decode B = .error e := by
      rintro ⟨e, he⟩
      cases hi.symm.trans he
    refine ⟨_, h, fun he => absurd he accepted, fun m sm hf h15 h18 hm => ?_⟩
    rcases decode_of_framed hf h15 hm h18 with ⟨rfl, mm, ss, ff, hd⟩ | ⟨rfl, mm, ss, ff, hd⟩ |
      ⟨rfl, hsm, mm, ss, ff, f, c, ci, hd⟩ | ⟨rfl, hsm, mm, ss, ff, f, c, ci, hd⟩ <;> cases hi.symm.trans hd
    · exact ⟨rfl, rfl, rfl, rfl⟩
    · exact ⟨rfl, rfl, rfl, rfl⟩
    · have hform : formOf sm = 1 := by rw [formOf_eq_mask, if_pos hsm]
      refine ⟨rfl, rfl, rfl, ?_⟩
      simpa [eccPresent, hdrPresent, classDescriptor, classDescriptor.mode2, hform] using hsm
    · have hform : formOf sm = 2 := by rw [formOf_eq_mask, if_neg hsm]
      refine ⟨rfl, rfl, rfl, ?_⟩
      simpa [eccPresent, hdrPresent, classDescriptor, classDescriptor.mode2, hform] using hsm

end Sys2Proof.Machine
end

section
/-! PROOFS. The invariant of the machine (spec/10_state.md, spec/43_sector_classes.md): it holds at reset and every step keeps
it. Its clauses on STATUS and the descriptor are met by the three kinds of result there are, none, an error and a class. -/

namespace Sys2Proof.Machine

open Sys2Proof

/-! ### The clauses on the result -/

/-- The invariant of a state is that of any state with its result, but for the clauses on the other registers. -/
theorem inv_of_result {s t : State} (hs : s.Inv) (hout : t.result = s.result) (hcnt : t.cnt.toNat ≤ 2352)
    (hsync : t.cnt = 0 → t.syncOk = true) (hdone : t.done = true → t.cnt = 0 ∧ t.status ≠ .none)
    (hsticky : isError t.status = true → t.stickyErr = true) : t.Inv := by
  cases s
  cases t
  obtain ⟨rfl, rfl⟩ := Prod.mk.inj hout
  exact ⟨hcnt, hsync, hdone, hsticky, hs.hdr_group, hs.xa_group, hs.csum_group, hs.ecc_group, hs.minute_le, hs.second_le,
    hs.sector_le, hs.mode_le, hs.form_legal, hs.ranges_by_class, hs.flags_rebuild, hs.filler_iff⟩

/-- With no descriptor and no success in STATUS the clauses on the result say nothing (R24, R31, R206). -/
theorem inv_of_absent {s : State} (hdesc : s.desc = Descriptor.absent) (hstatus : s.status ≠ .ok)
    (hcnt : s.cnt.toNat ≤ 2352) (hsync : s.cnt = 0 → s.syncOk = true)
    (hdone : s.done = true → s.cnt = 0 ∧ s.status ≠ .none)
    (hsticky : isError s.status = true → s.stickyErr = true) : s.Inv := by
  obtain ⟨hdr, xa, csum, ecc⟩ := absent_of_hdrAbsent (s := s) (beq_eq_false_iff_ne.2 hstatus)
  constructor
  case cnt_le => exact hcnt
  case sync_at_start => exact hsync
  case done_means_result => exact hdone
  case error_is_sticky => exact hsticky
  case hdr_group => rw [hdr, hdesc]; rfl
  case xa_group => rw [xa, hdesc]; rfl
  case csum_group => rw [csum, hdesc]; rfl
  case ecc_group => rw [ecc, hdesc]; rfl
  all_goals
    rw [hdesc]
    exact nofun

theorem atMost_some {w n : Nat} {v : BitVec w} (h : v.toNat ≤ n) : atMost n (some v) :=
  fun _ hv => Option.some.inj hv ▸ h

/-- A class writes BCD values to the timecode (R22, R115). -/
theorem classDescriptor_timecode_le {i : Instr} (hc : i.isClass = true) :
    atMost 165 (classDescriptor i).minute ∧ atMost 165 (classDescriptor i).second ∧
      atMost 165 (classDescriptor i).sector := by
  have bcd (mm ss ff : Byte) : atMost 165 (some (bcd2bin mm)) ∧ atMost 165 (some (bcd2bin ss)) ∧
      atMost 165 (some (bcd2bin ff)) :=
    ⟨atMost_some (bcd2bin_le mm), atMost_some (bcd2bin_le ss), atMost_some (bcd2bin_le ff)⟩
  cases i with
  | secM0 mm ss ff => exact bcd mm ss ff
  | secM1 mm ss ff => exact bcd mm ss ff
  | secM2F1 mm ss ff f c sm ci => exact bcd mm ss ff
  | secM2F2 mm ss ff f c sm ci => exact bcd mm ss ff
  | _ => cases hc

/-- A class's mode and form are those of R22. -/
theorem classDescriptor_mode_form {i : Instr} (hc : i.isClass = true) :
    atMost 2 (classDescriptor i).mode ∧ ∀ f, (classDescriptor i).form = some f → f = 1 ∨ f = 2 := by
  have form_legal (sm : Byte) (f : BitVec 2) (h : some (formOf sm) = some f) : f = 1 ∨ f = 2 := by
    rw [← Option.some.inj h, formOf_eq_mask]
    split_ifs
    · exact .inl rfl
    · exact .inr rfl
  cases i with
  | secM0 mm ss ff => exact ⟨atMost_some (by decide), nofun⟩
  | secM1 mm ss ff => exact ⟨atMost_some (by decide), nofun⟩
  | secM2F1 mm ss ff f c sm ci => exact ⟨atMost_some (by decide), form_legal sm⟩
  | secM2F2 mm ss ff f c sm ci => exact ⟨atMost_some (by decide), form_legal sm⟩
  | _ => cases hc

/-- Bit 5 of a well-formed mode 2 class gives the form (R83, R141). -/
theorem formOf_of_wellFormed {mm ss ff f c sm ci : Byte} :
    ((Instr.secM2F1 mm ss ff f c sm ci).wellFormed = true → formOf sm = 1) ∧
    ((Instr.secM2F2 mm ss ff f c sm ci).wellFormed = true → formOf sm = 2) := by
  rw [formOf_eq]
  simp only [Instr.wellFormed]
  cases sm.getLsbD 5
  · exact ⟨fun _ => rfl, nofun⟩
  · exact ⟨nofun, fun _ => rfl⟩

/-- The state after reset with the result of the class `i`: a state that shows what any such result meets. -/
def classState (i : Instr) : State := { State.reset with status := .ok, desc := classDescriptor i }

/-- Each group is wholly present or wholly absent after a class, as R23 computes it. -/
theorem classState_groups {i : Instr} (hc : i.isClass = true) (hw : i.wellFormed = true) :
    (classDescriptor i).hdrHeld = true ∧
    (if xaPresent (classState i) then (classDescriptor i).xaHeld = true else (classDescriptor i).xaEmpty = true) ∧
    (if csumPresent (classState i) then (classDescriptor i).csumHeld = true else (classDescriptor i).csumEmpty = true) ∧
    (if eccPresent (classState i) then (classDescriptor i).eccHeld = true else (classDescriptor i).eccEmpty = true) := by
  cases i with
  | secM0 mm ss ff => exact ⟨rfl, rfl, rfl, rfl⟩
  | secM1 mm ss ff => exact ⟨rfl, rfl, rfl, rfl⟩
  | secM2F1 mm ss ff f c sm ci =>
    have hecc : eccPresent (classState (.secM2F1 mm ss ff f c sm ci)) = (formOf sm == 1) := rfl
    refine ⟨rfl, rfl, rfl, ?_⟩
    rw [hecc, formOf_of_wellFormed.1 hw]
    rfl
  | secM2F2 mm ss ff f c sm ci =>
    have hecc : eccPresent (classState (.secM2F2 mm ss ff f c sm ci)) = (formOf sm == 1) := rfl
    refine ⟨rfl, rfl, rfl, ?_⟩
    rw [hecc, formOf_of_wellFormed.2 hw]
    rfl
  | _ => cases hc

/-- A class's ranges are the table's for its mode and form (R7, R161). -/
theorem classDescriptor_ranges {i : Instr} (hc : i.isClass = true) (hw : i.wellFormed = true) (m : BitVec 2)
    (hm : (classDescriptor i).mode = some m) :
    (classDescriptor i).ranges = rangesOf m.toNat (((classDescriptor i).form.map BitVec.toNat).getD 0) := by
  cases i with
  | secM0 mm ss ff => cases hm; rfl
  | secM1 mm ss ff => cases hm; rfl
  | secM2F1 mm ss ff f c sm ci =>
    cases hm
    have hform : (classDescriptor (.secM2F1 mm ss ff f c sm ci)).form = some 1 :=
      congrArg some (formOf_of_wellFormed.1 hw)
    rw [hform]
    rfl
  | secM2F2 mm ss ff f c sm ci =>
    cases hm
    have hform : (classDescriptor (.secM2F2 mm ss ff f c sm ci)).form = some 2 :=
      congrArg some (formOf_of_wellFormed.2 hw)
    rw [hform]
    rfl
  | _ => cases hc

/-- A class's flags rebuild its submode byte (R144). -/
theorem classDescriptor_flags {i : Instr} (hc : i.isClass = true) (b : Byte)
    (hb : (classDescriptor i).submode = some b) : (classDescriptor i).submodeFromFlags = some b.toNat := by
  cases i with
  | secM0 mm ss ff => cases hb
  | secM1 mm ss ff => cases hb
  | secM2F1 mm ss ff f c sm ci => cases hb; exact submodeFromFlags_mode2 mm ss ff f c b ci
  | secM2F2 mm ss ff f c sm ci => cases hb; exact submodeFromFlags_mode2 mm ss ff f c b ci
  | _ => cases hc

/-- The filler predicate of a mode 2 class in terms of its registers: the byte 32 has form 2 (R165). -/
theorem fillerOf_mode2_iff (b : Byte) :
    fillerOf 2 (some b) = true ↔ some (2 : BitVec 2) = some 0 ∨
      (some (2 : BitVec 2) = some 2 ∧ some (formOf b) = some 2 ∧ some b = some 32) := by
  rw [fillerOf_mode2, decide_eq_true_iff]
  constructor
  · rintro rfl
    exact .inr ⟨rfl, by decide, rfl⟩
  · rintro (h | ⟨-, -, h⟩)
    · exact absurd h (by decide)
    · exact Option.some.inj h

/-- A class's IS_FILLER is the predicate of R165 over its registers. -/
theorem classDescriptor_filler {i : Instr} (hc : i.isClass = true) (f : Bool)
    (hf : (classDescriptor i).isFiller = some f) :
    f = true ↔ (classDescriptor i).mode = some 0 ∨ ((classDescriptor i).mode = some 2 ∧
      (classDescriptor i).form = some 2 ∧ (classDescriptor i).submode = some 32) := by
  cases i with
  | secM0 mm ss ff => cases hf; exact iff_of_true rfl (.inl rfl)
  | secM1 mm ss ff =>
    cases hf
    refine iff_of_false nofun ?_
    rintro (h | ⟨h, -⟩) <;> exact absurd (Option.some.inj h) (by decide)
  | secM2F1 mm ss ff f c sm ci => cases hf; exact fillerOf_mode2_iff sm
  | secM2F2 mm ss ff f c sm ci => cases hf; exact fillerOf_mode2_iff sm
  | _ => cases hc

/-- The result of a well-formed class meets the invariant. -/
theorem inv_classState {i : Instr} (hc : i.isClass = true) (hw : i.wellFormed = true) : (classState i).Inv := by
  obtain ⟨hdr, xa, csum, ecc⟩ := classState_groups hc hw
  obtain ⟨minute, second, sector⟩ := classDescriptor_timecode_le hc
  obtain ⟨mode, form⟩ := classDescriptor_mode_form hc
  exact ⟨Nat.zero_le _, fun _ => rfl, nofun, nofun, hdr, xa, csum, ecc, minute, second, sector, mode, form,
    classDescriptor_ranges hc hw, classDescriptor_flags hc, classDescriptor_filler hc⟩

/-! ### The steps -/

/-- Settles O41: after reset there is no descriptor, and CNT is 0. -/
theorem invariantHoldsAtReset : Obligations.InvariantHoldsAtReset :=
  inv_of_absent rfl nofun (Nat.zero_le _) (fun _ => rfl) nofun nofun

theorem errorStatus_ne (e : BlockError) : errorStatus e ≠ .none ∧ errorStatus e ≠ .ok := by
  cases e <;> decide

/-- What a decoder's answer leaves meets the invariant, the answer being an error or a well-formed class. -/
theorem inv_of_decodedOutcome {t : State} {r : Except BlockError Instr} {sticky : Bool}
    (hr : ∀ i, r = .ok i → i.isClass = true ∧ i.wellFormed = true) (hout : t.outcome = decodedOutcome r sticky)
    (hcnt : t.cnt.toNat ≤ 2352) (hsync : t.cnt = 0 → t.syncOk = true) (hdone : t.done = true → t.cnt = 0) : t.Inv := by
  cases r with
  | error e =>
    obtain ⟨hstatus, hsticky, hdesc⟩ := outcome_eq_error_iff.1 hout
    obtain ⟨hnone, hok⟩ := errorStatus_ne e
    exact inv_of_absent hdesc (hstatus ▸ hok) hcnt hsync (fun h => ⟨hdone h, hstatus ▸ hnone⟩) fun _ => hsticky
  | ok i =>
    obtain ⟨hstatus, -, hdesc⟩ := outcome_eq_ok_iff.1 hout
    obtain ⟨hclass, hwell⟩ := hr i rfl
    refine inv_of_result (inv_classState hclass hwell) (Prod.ext hstatus hdesc) hcnt hsync ?_ ?_
    · exact fun h => ⟨hdone h, by rw [hstatus]; nofun⟩
    · rw [hstatus]
      exact nofun

/-- IDLE keeps the invariant (R183). -/
theorem inv_idleOp {s : State} (hs : s.Inv) (xs : List Input) : (idleOp { s with inputs := xs }).Inv :=
  inv_of_result hs rfl hs.cnt_le hs.sync_at_start nofun hs.error_is_sticky

/-- RESET meets the invariant, whatever was before (R182). -/
theorem inv_resetOp (s : State) : (resetOp s).Inv :=
  inv_of_absent rfl nofun (Nat.zero_le _) (fun _ => rfl) nofun nofun

/-- A byte that is not the last keeps the invariant: CNT is then 1 to 2352 (R184, R187). -/
theorem inv_accept_more {s t : State} (hs : s.Inv) {d : Byte} {xs : List Input}
    (ht : accept d false { s with inputs := xs } = .next t) : t.Inv := by
  cases (accept_more d _).symm.trans ht
  have hcnt := nextCnt_toNat s.cnt.toNat
  rw [blockLen] at hcnt
  refine inv_of_result hs (Prod.ext (seen_status _ _) (seen_desc _ _)) ?_ (fun h => ?_) nofun fun h => ?_
  · rw [countByte_cnt, hcnt]
    exact Nat.min_le_right _ _
  · rw [countByte_cnt] at h
    rw [h] at hcnt
    have hzero : (0 : BitVec 12).toNat = 0 := rfl
    omega
  · rw [countByte_status, seen_status] at h
    rw [countByte_stickyErr, seen_stickyErr]
    exact hs.error_is_sticky h

/-- A last byte meets the invariant, whatever was before (R184, R186). -/
theorem inv_accept_last {s t : State} {d : Byte} (ht : accept d true s = .next t) : t.Inv := by
  obtain ⟨u, hu, hout, hcnt, hsync, -⟩ := accept_last_eq d s
  cases hu.symm.trans ht
  refine inv_of_decodedOutcome (fun i hi => selectClass_ok (decodeCaptured_ok hi).2.2) hout ?_ (fun _ => hsync)
    fun _ => hcnt
  rw [hcnt]
  exact Nat.zero_le _

/-- A PARSE keeps the invariant: it leaves the byte-serial registers (log entry 4). -/
theorem inv_parse {s t : State} (hs : s.Inv) {B : Block} {xs : List Input}
    (ht : parse B { s with inputs := xs } = .next t) : t.Inv := by
  obtain ⟨u, hu, hout, hdone, hcnt, hsync, -⟩ := parse_eq B { s with inputs := xs }
  cases hu.symm.trans ht
  refine inv_of_decodedOutcome (fun i hi => decode_ok hi) hout ?_ ?_ ?_
  · rw [hcnt]
    exact hs.cnt_le
  · rw [hcnt, hsync]
    exact hs.sync_at_start
  · rw [hdone, hcnt]
    exact fun h => (hs.done_means_result h).1

/-- Settles O42, by the cases of a step. -/
theorem everyStepKeepsTheInvariant : Obligations.EveryStepKeepsTheInvariant := by
  intro s t hs ht
  rcases step_cases s with ⟨-, h⟩ | ⟨v, d, l, rest, -, h⟩ | ⟨d, l, rest, -, h⟩ | ⟨d, l, rest, -, h⟩ |
    ⟨B, rest, -, h⟩ | ⟨p, rest, -, h⟩
  -- nothing presented
  · cases h.symm.trans ht
    exact inv_idleOp hs s.inputs
  -- RESET
  · cases h.symm.trans ht
    exact inv_resetOp _
  -- IDLE
  · cases h.symm.trans ht
    exact inv_idleOp hs rest
  -- ACCEPT
  · cases l with
    | false => exact inv_accept_more hs (h.symm.trans ht)
    | true => exact inv_accept_last (h.symm.trans ht)
  -- PARSE
  · exact inv_parse hs (h.symm.trans ht)
  -- a host's read
  · rcases hostRead_cases p { s with inputs := rest } with ⟨-, hr⟩ | ⟨-, hr⟩
    · cases (h.trans hr).symm.trans ht
      exact inv_of_result hs rfl hs.cnt_le hs.sync_at_start hs.done_means_result hs.error_is_sticky
    · cases (h.trans hr).symm.trans ht

end Sys2Proof.Machine
end

section
/-! PROOFS. The output ports (spec/44_stream_operations.md R180, spec/10_state.md R22 to R25): which has a value, what it
shows, and the host's use of one (R236). -/

namespace Sys2Proof.Machine

open Sys2Proof

/-! ### The groups and their registers -/

/-- Whether the port means something: always for a port that is no descriptor register, else while the register's group is
present (R23, R236). -/
def portPresent (s : State) : OutPort → Bool
  | .status | .err | .stickyErr | .done | .hdrPresent | .xaPresent | .csumPresent | .eccPresent => true
  | .minute | .second | .sector | .mode | .isFiller | .dataOff | .dataLen => hdrPresent s
  | .csumOff | .csumLen => csumPresent s
  | .eccOff | .eccLen => eccPresent s
  | .file | .channel | .submode | .codinginfo | .eor | .typeVideo | .typeAudio | .typeData | .trigger | .form | .realtime
  | .eof => xaPresent s

/-- The HDR registers hold values while the group is present. -/
theorem State.Inv.hdr_held {s : State} (hs : s.Inv) (h : hdrPresent s = true) :
    s.desc.minute.isSome = true ∧ s.desc.second.isSome = true ∧ s.desc.sector.isSome = true ∧
    s.desc.mode.isSome = true ∧ s.desc.isFiller.isSome = true ∧ s.desc.dataOff.isSome = true ∧
    s.desc.dataLen.isSome = true := by
  simpa only [h, if_true, Descriptor.hdrHeld, Bool.and_eq_true, and_assoc] using hs.hdr_group

/-- The CSUM registers hold values while the group is present. -/
theorem State.Inv.csum_held {s : State} (hs : s.Inv) (h : csumPresent s = true) :
    s.desc.csumOff.isSome = true ∧ s.desc.csumLen.isSome = true := by
  simpa only [h, if_true, Descriptor.csumHeld, Bool.and_eq_true] using hs.csum_group

/-- The ECC registers hold values while the group is present. -/
theorem State.Inv.ecc_held {s : State} (hs : s.Inv) (h : eccPresent s = true) :
    s.desc.eccOff.isSome = true ∧ s.desc.eccLen.isSome = true := by
  simpa only [h, if_true, Descriptor.eccHeld, Bool.and_eq_true] using hs.ecc_group

/-- The XA registers hold values while the group is present. -/
theorem State.Inv.xa_held {s : State} (hs : s.Inv) (h : xaPresent s = true) :
    s.desc.file.isSome = true ∧ s.desc.channel.isSome = true ∧ s.desc.submode.isSome = true ∧
    s.desc.codinginfo.isSome = true ∧ s.desc.eor.isSome = true ∧ s.desc.typeVideo.isSome = true ∧
    s.desc.typeAudio.isSome = true ∧ s.desc.typeData.isSome = true ∧ s.desc.trigger.isSome = true ∧
    s.desc.form.isSome = true ∧ s.desc.realtime.isSome = true ∧ s.desc.eof.isSome = true := by
  simpa only [h, if_true, Descriptor.xaHeld, Bool.and_eq_true, and_assoc] using hs.xa_group

/-! ### What the ports of a group show -/

/-- While HDR is present its ports carry their registers. -/
theorem carries_hdr {s : State} (hs : s.Inv) (h : hdrPresent s = true) :
    Carries s .minute s.desc.minute ∧ Carries s .second s.desc.second ∧ Carries s .sector s.desc.sector ∧
    Carries s .mode s.desc.mode ∧ CarriesBit s .isFiller s.desc.isFiller ∧
    Carries s .dataOff s.desc.dataOff ∧ Carries s .dataLen s.desc.dataLen := by
  obtain ⟨minute, second, sector, mode, isFiller, dataOff, dataLen⟩ := hs.hdr_held h
  exact ⟨carries_of_present rfl h minute, carries_of_present rfl h second, carries_of_present rfl h sector,
    carries_of_present rfl h mode, carriesBit_of_present rfl h isFiller, carries_of_present rfl h dataOff,
    carries_of_present rfl h dataLen⟩

/-- While CSUM is present its ports carry their registers. -/
theorem carries_csum {s : State} (hs : s.Inv) (h : csumPresent s = true) :
    Carries s .csumOff s.desc.csumOff ∧ Carries s .csumLen s.desc.csumLen := by
  obtain ⟨off, len⟩ := hs.csum_held h
  exact ⟨carries_of_present rfl h off, carries_of_present rfl h len⟩

/-- While ECC is present its ports carry their registers. -/
theorem carries_ecc {s : State} (hs : s.Inv) (h : eccPresent s = true) :
    Carries s .eccOff s.desc.eccOff ∧ Carries s .eccLen s.desc.eccLen := by
  obtain ⟨off, len⟩ := hs.ecc_held h
  exact ⟨carries_of_present rfl h off, carries_of_present rfl h len⟩

/-- While XA is present its ports carry their registers. -/
theorem carries_xa {s : State} (hs : s.Inv) (h : xaPresent s = true) :
    Carries s .file s.desc.file ∧ Carries s .channel s.desc.channel ∧ Carries s .submode s.desc.submode ∧
    Carries s .codinginfo s.desc.codinginfo ∧ CarriesBit s .eor s.desc.eor ∧
    CarriesBit s .typeVideo s.desc.typeVideo ∧ CarriesBit s .typeAudio s.desc.typeAudio ∧
    CarriesBit s .typeData s.desc.typeData ∧ CarriesBit s .trigger s.desc.trigger ∧ Carries s .form s.desc.form ∧
    CarriesBit s .realtime s.desc.realtime ∧ CarriesBit s .eof s.desc.eof := by
  obtain ⟨file, channel, submode, ci, eor, video, audio, data, trigger, form, realtime, eof⟩ := hs.xa_held h
  exact ⟨carries_of_present rfl h file, carries_of_present rfl h channel, carries_of_present rfl h submode,
    carries_of_present rfl h ci, carriesBit_of_present rfl h eor, carriesBit_of_present rfl h video,
    carriesBit_of_present rfl h audio, carriesBit_of_present rfl h data, carriesBit_of_present rfl h trigger,
    carries_of_present rfl h form, carriesBit_of_present rfl h realtime, carriesBit_of_present rfl h eof⟩

theorem whenPresent_false (v : Option Nat) : whenPresent false v = none := rfl

/-- A port that is not present has no value (R24). -/
theorem portValue_eq_none {s : State} {p : OutPort} (h : portPresent s p = false) : portValue s p = none := by
  cases p with
  | status | err | stickyErr | done | hdrPresent | xaPresent | csumPresent | eccPresent => cases h
  | _ =>
    simp only [portPresent] at h
    simp only [portValue, h, whenPresent_false]

/-- Under the invariant a port that is present has a value (R23). -/
theorem portValue_isSome {s : State} {p : OutPort} (hs : s.Inv) (h : portPresent s p = true) :
    (portValue s p).isSome = true := by
  cases p with
  | status | err | stickyErr | done | hdrPresent | xaPresent | csumPresent | eccPresent => rfl
  | minute | second | sector | mode | isFiller | dataOff | dataLen =>
    have hdr : hdrPresent s = true := h
    simp [portValue, whenPresent, hdr, hs.hdr_held hdr]
  | csumOff | csumLen =>
    have csum : csumPresent s = true := h
    simp [portValue, whenPresent, csum, hs.csum_held csum]
  | eccOff | eccLen =>
    have ecc : eccPresent s = true := h
    simp [portValue, whenPresent, ecc, hs.ecc_held ecc]
  | file | channel | submode | codinginfo | eor | typeVideo | typeAudio | typeData | trigger | form | realtime | eof =>
    have xa : xaPresent s = true := h
    simp [portValue, whenPresent, xa, hs.xa_held xa]

/-- The ports of absent registers, as the claims list them by their groups. -/
theorem portPresent_eq_false_iff (s : State) (p : OutPort) : portPresent s p = false ↔
    (p ∈ [.minute, .second, .sector, .mode, .isFiller, .dataOff, .dataLen] ∧ hdrPresent s = false) ∨
    (p ∈ [.csumOff, .csumLen] ∧ csumPresent s = false) ∨
    (p ∈ [.eccOff, .eccLen] ∧ eccPresent s = false) ∨
    (p ∈ [.file, .channel, .submode, .codinginfo, .eor, .typeVideo, .typeAudio, .typeData, .trigger, .form, .realtime,
      .eof] ∧ xaPresent s = false) := by
  cases p <;> simp [portPresent]

/-- A port that is not present shows nothing (R24). -/
theorem showsNothing_of_not_present {s : State} {p : OutPort} (h : portPresent s p = false) : ShowsNothing s p :=
  showsNothing_of_none (portValue_eq_none h)

/-- A host's read is a step of its own, its input consumed (R220). -/
theorem step_of_read {s : State} {p : OutPort} {rest : List Input} (h : s.inputs = .read p :: rest) :
    step s = hostRead p { s with inputs := rest } := by
  rw [step, h]
  rfl

/-- Settles O38: a use faults exactly when the port has no value, and under the invariant that is when it is absent. -/
theorem absentRegistersFaultTheHost : Obligations.AbsentRegistersFaultTheHost := by
  intro s p rest hs hin
  refine ⟨fun habsent => ?_, fun hpresent => ?_⟩
  · have hnone := portValue_eq_none ((portPresent_eq_false_iff s p).2 habsent)
    rcases hostRead_cases p { s with inputs := rest } with ⟨⟨v, hv⟩, -⟩ | ⟨-, hr⟩
    · cases hnone.symm.trans hv
    · exact ⟨(step_of_read hin).trans hr, by rw [portLevel, hnone]; rfl⟩
  · have hsome := portValue_isSome hs (eq_true_of_ne_false (mt (portPresent_eq_false_iff s p).1 hpresent))
    rcases hostRead_cases p { s with inputs := rest } with ⟨-, hr⟩ | ⟨hnone, -⟩
    · exact (step_of_read hin).trans hr
    · have hnone' : portValue s p = none := hnone
      rw [hnone'] at hsome
      cases hsome

/-! ### Widths and levels -/

/-- The level of a register's port fits the register's width. -/
theorem registerLevel_lt {w : Nat} (b : Bool) (r : Option (BitVec w)) :
    (whenPresent b (r.map BitVec.toNat)).getD 0 < 2 ^ w := by
  cases b with
  | false => exact Nat.two_pow_pos w
  | true =>
    cases r with
    | none => exact Nat.two_pow_pos w
    | some v => exact v.isLt

/-- The level of a one-bit register's port is 0 or 1. -/
theorem bitLevel_lt (b : Bool) (r : Option Bool) : (whenPresent b (r.map bitNat)).getD 0 < 2 ^ 1 := by
  cases b with
  | false => exact Nat.two_pow_pos 1
  | true =>
    cases r with
    | none => exact Nat.two_pow_pos 1
    | some v => exact Bool.toNat_lt v

/-- Every port's level fits its width (R180). -/
theorem portLevel_lt (s : State) (p : OutPort) : portLevel s p < 2 ^ portWidth p := by
  cases p with
  | status => exact (statusCode s.status).isLt
  | err | stickyErr | done | hdrPresent | xaPresent | csumPresent | eccPresent => exact Bool.toNat_lt _
  | isFiller | eor | typeVideo | typeAudio | typeData | trigger | realtime | eof => exact bitLevel_lt _ _
  | _ => exact registerLevel_lt _ _

/-! ### What the status ports show -/

theorem showsBit_congr {s : State} {p : OutPort} {c c' : Prop} (h : ShowsBit s p c) (hc : c ↔ c') : ShowsBit s p c' :=
  ⟨fun hc' => h.1 (hc.2 hc'), fun hc' => h.2 (mt hc.1 hc')⟩

/-- The port of STATUS shows its code (R25). -/
theorem shows_status (s : State) : Shows s .status
    (match s.status with | .none => 0 | .ok => 1 | .badLength => 2 | .badSync => 3 | .unknownMode => 4) := by
  have hcode : (statusCode s.status).toNat =
      (match s.status with | .none => 0 | .ok => 1 | .badLength => 2 | .badSync => 3 | .unknownMode => 4) := by
    cases s.status <;> rfl
  rw [← hcode]
  exact shows_of_value rfl

/-- The port `err` shows whether STATUS is 2, 3 or 4 (R25). -/
theorem showsBit_err (s : State) : ShowsBit s .err (2 ≤ portLevel s .status ∧ portLevel s .status ≤ 4) := by
  refine showsBit_congr (showsBit_of_value rfl) ?_
  show isError s.status = true ↔ 2 ≤ (statusCode s.status).toNat ∧ (statusCode s.status).toNat ≤ 4
  cases s.status <;> decide

theorem hdrPresent_iff (s : State) : hdrPresent s = true ↔ s.status = .ok := beq_iff_eq

theorem xaPresent_iff (s : State) : xaPresent s = true ↔ s.status = .ok ∧ s.desc.mode = some 2 := by
  rw [xaPresent, Bool.and_eq_true, hdrPresent_iff, beq_iff_eq]

theorem csumPresent_iff (s : State) :
    csumPresent s = true ↔ s.status = .ok ∧ (s.desc.mode = some 1 ∨ s.desc.mode = some 2) := by
  rw [csumPresent, Bool.and_eq_true, hdrPresent_iff, Bool.or_eq_true, beq_iff_eq, beq_iff_eq]

theorem eccPresent_iff (s : State) : eccPresent s = true ↔
    s.status = .ok ∧ (s.desc.mode = some 1 ∨ (s.desc.mode = some 2 ∧ s.desc.form = some 1)) := by
  rw [eccPresent, Bool.and_eq_true, hdrPresent_iff, Bool.or_eq_true, Bool.and_eq_true, beq_iff_eq, beq_iff_eq,
    beq_iff_eq]

/-- Settles O40: the widths by the table, the levels by `portLevel_lt`, and each port by its group. -/
theorem portsCarryTheirRegisters : Obligations.PortsCarryTheirRegisters := by
  refine ⟨by decide, by decide, rfl, rfl, by decide, by decide, portLevel_lt, fun s hs => ?_⟩
  refine ⟨shows_status s, showsBit_err s, showsBit_of_value rfl, showsBit_of_value rfl,
    showsBit_congr (showsBit_of_value rfl) (hdrPresent_iff s), showsBit_congr (showsBit_of_value rfl) (xaPresent_iff s),
    showsBit_congr (showsBit_of_value rfl) (csumPresent_iff s),
    showsBit_congr (showsBit_of_value rfl) (eccPresent_iff s),
    carries_hdr hs, carries_csum hs, carries_ecc hs, carries_xa hs, ?_, ?_, ?_, ?_⟩
  · exact fun h p hp => showsNothing_of_not_present ((portPresent_eq_false_iff s p).2 (.inl ⟨hp, h⟩))
  · exact fun h p hp => showsNothing_of_not_present ((portPresent_eq_false_iff s p).2 (.inr (.inl ⟨hp, h⟩)))
  · exact fun h p hp => showsNothing_of_not_present ((portPresent_eq_false_iff s p).2 (.inr (.inr (.inl ⟨hp, h⟩))))
  · exact fun h p hp => showsNothing_of_not_present ((portPresent_eq_false_iff s p).2 (.inr (.inr (.inr ⟨hp, h⟩))))

end Sys2Proof.Machine
end

section
/-! PROOFS. The step as a whole: what it runs, and the one way it stops (spec/60_exceptions.md, R155, R184, R236). -/

namespace Sys2Proof.Machine

open Sys2Proof

/-- Settles O44, by the cases of a step: every operation answers but a read of a port with no value. -/
theorem onlyAnAbsentReadStops : Obligations.OnlyAnAbsentReadStops := by
  intro s
  rcases step_cases s with ⟨-, h⟩ | ⟨v, d, l, rest, -, h⟩ | ⟨d, l, rest, -, h⟩ | ⟨d, l, rest, hin, h⟩ |
    ⟨B, rest, -, h⟩ | ⟨p, rest, hin, h⟩
  -- nothing presented
  · exact .inl ⟨_, h⟩
  -- RESET
  · exact .inl ⟨_, h⟩
  -- IDLE
  · exact .inl ⟨_, h⟩
  -- ACCEPT
  · obtain ⟨t, ht, -⟩ := accept_done d l { s with inputs := rest }
    exact .inl ⟨t, h.trans ht⟩
  -- PARSE
  · obtain ⟨t, ht, -⟩ := parse_outcome B { s with inputs := rest }
    exact .inl ⟨t, h.trans ht⟩
  -- a host's read
  · rcases hostRead_cases p { s with inputs := rest } with ⟨-, hr⟩ | ⟨hnone, hr⟩
    · exact .inl ⟨_, h.trans hr⟩
    · exact .inr ⟨p, rest, hin, hnone, h.trans hr⟩

/-- Settles O45: such a step is IDLE, and IDLE writes DONE alone. -/
theorem nothingPresentedIsIdle : Obligations.NothingPresentedIsIdle :=
  fun _ h => step_of_nil h

/-- A last byte whose COMMIT accepts the block runs its class, then ends the block (R184, R186). -/
theorem accept_last_of_ok {d : Byte} {s t : State} {i : Instr} (hc : s.cnt.toNat = 2351)
    (hd : decodeCaptured s.cnt.toNat s.syncOk s.cap = .ok i) (ht : exec i s = .next t) :
    accept d true s = .next (endBlock t) := by
  rcases accept_last d s with ⟨e, he, -⟩ | ⟨j, hj, h⟩
  · rw [seen_at_lastOffset d hc, hd] at he
    cases he
  · rw [seen_at_lastOffset d hc] at hj h
    cases hd.symm.trans hj
    obtain ⟨-, -, hs⟩ := decodeCaptured_ok hd
    obtain ⟨hclass, -⟩ := selectClass_ok hs
    cases (exec_class hclass s).symm.trans ht
    exact h

/-- What a table word decodes to is what its block decodes to (R82). -/
theorem decode_tableBlock {nbits w : Nat} {i : Instr} (h : decodeTableWord nbits w = some i) :
    decode (tableBlock nbits w) = .ok i := by
  rw [decodeTableWord] at h
  cases hd : decode (tableBlock nbits w) with
  | error e => rw [hd] at h; cases h
  | ok j => rw [hd] at h; cases h; rfl

/-- Settles O43: by the laws of a PARSE step, and of a last byte with the block's own header captured. -/
theorem stepRunsTheDecodedInstruction : Obligations.StepRunsTheDecodedInstruction := by
  refine ⟨fun s B rest hin => ⟨step_of_parse hin, fun e he => ?_⟩, fun s B i rest hin hd => ?_,
    fun s B i d rest hin hc hs hh hd => ?_, fun s nbits w i h => ?_⟩
  · exact ⟨_, (step_of_parse hin).trans (parse_of_error he _), rfl, rfl, rfl, rfl⟩
  · exact ⟨(decode_ok hd).2, (step_of_parse hin).trans (parse_eq_exec hd _)⟩
  · have hcaptured : decodeCaptured s.cnt.toNat s.syncOk s.cap = .ok i := by
      obtain ⟨hf, -⟩ := (decode_eq_ok_iff hh i).1 hd
      rw [hc, hs, decodeCaptured_eq_decode hf hh, hd]
    have hexec := exec_class (decode_ok hd).1 { s with inputs := rest }
    exact ⟨_, hexec, (step_of_edge hin).trans
      (accept_last_of_ok (s := { s with inputs := rest }) hc hcaptured hexec)⟩
  · exact (step_of_parse rfl).trans (parse_eq_exec (decode_tableBlock h) s)

end Sys2Proof.Machine
end

section
/-! PROOFS. The order of a block's field operations (R116, R126, R135): each writes one register, to a value that is the
block's alone, and such writes commute. -/

namespace Sys2Proof.Machine

open Sys2Proof

/-- The registers of `p` that hold a value, written over those of `d`. -/
def Descriptor.overlay (p d : Descriptor) : Descriptor where
  minute := p.minute.or d.minute
  second := p.second.or d.second
  sector := p.sector.or d.sector
  mode := p.mode.or d.mode
  isFiller := p.isFiller.or d.isFiller
  dataOff := p.dataOff.or d.dataOff
  dataLen := p.dataLen.or d.dataLen
  csumOff := p.csumOff.or d.csumOff
  csumLen := p.csumLen.or d.csumLen
  eccOff := p.eccOff.or d.eccOff
  eccLen := p.eccLen.or d.eccLen
  file := p.file.or d.file
  channel := p.channel.or d.channel
  submode := p.submode.or d.submode
  codinginfo := p.codinginfo.or d.codinginfo
  eor := p.eor.or d.eor
  typeVideo := p.typeVideo.or d.typeVideo
  typeAudio := p.typeAudio.or d.typeAudio
  typeData := p.typeData.or d.typeData
  trigger := p.trigger.or d.trigger
  form := p.form.or d.form
  realtime := p.realtime.or d.realtime
  eof := p.eof.or d.eof

/-- What a field operation writes, every other register absent; a class is no field operation. -/
def written : Instr → Descriptor
  | .decMin b => { Descriptor.absent with minute := some (bcd2bin b) }
  | .decSec b => { Descriptor.absent with second := some (bcd2bin b) }
  | .decSect b => { Descriptor.absent with sector := some (bcd2bin b) }
  | .extMode b => { Descriptor.absent with mode := modeOf b }
  | .extFile b => { Descriptor.absent with file := some b }
  | .extChan b => { Descriptor.absent with channel := some (channelOf b) }
  | .extSubmode b => { Descriptor.absent with submode := some b }
  | .extCi b => { Descriptor.absent with codinginfo := some b }
  | .flgEor b => { Descriptor.absent with eor := some (eorOf b) }
  | .flgVideo b => { Descriptor.absent with typeVideo := some (videoOf b) }
  | .flgAudio b => { Descriptor.absent with typeAudio := some (audioOf b) }
  | .flgData b => { Descriptor.absent with typeData := some (dataOf b) }
  | .flgTrigger b => { Descriptor.absent with trigger := some (triggerOf b) }
  | .flgForm b => { Descriptor.absent with form := some (formOf b) }
  | .flgRealtime b => { Descriptor.absent with realtime := some (realtimeOf b) }
  | .flgEof b => { Descriptor.absent with eof := some (eofOf b) }
  | .isFiller m v => { Descriptor.absent with isFiller := some (fillerOf m v) }
  | _ => Descriptor.absent

/-- The instruction, executed, writes `written` over the descriptor and nothing else, and the descriptor `d` already holds
what it writes. -/
structure WritesHeld (d : Descriptor) (op : Instr) : Prop where
  exec_eq : ∀ s : State, exec op s = .next { s with desc := (written op).overlay s.desc }
  held : (written op).overlay d = d

/-- The field operations of an accepted block write what the block's own descriptor holds. -/
theorem writesHeld_of_mem_fieldOps {B : Block} {i : Instr} (hd : decode B = .ok i) :
    ∀ op ∈ fieldOps i, WritesHeld (classDescriptor i) op := by
  obtain ⟨-, -, h, -, hi⟩ := decode_ok_cases hd
  rcases hi with ⟨-, rfl⟩ | ⟨-, rfl⟩ | ⟨-, -, rfl⟩ | ⟨-, -, rfl⟩
  all_goals
    simp only [fieldOps, fieldOps.mode2Ops, List.forall_mem_cons, List.not_mem_nil, false_implies,
      implies_true, and_true]
    and_intros <;> exact ⟨fun _ => rfl, rfl⟩

/-- Two values written over a register in either order, each absent or the value `t` holds. -/
theorem or_left_comm_of_or_eq {α : Type} {p q t : Option α} (hp : p.or t = t) (hq : q.or t = t) (d : Option α) :
    p.or (q.or d) = q.or (p.or d) := by
  cases p with
  | none => rfl
  | some v =>
    cases q with
    | none => rfl
    | some w => exact hp.trans hq.symm

/-- Writes whose values one descriptor holds commute. -/
theorem overlay_left_comm {p q t : Descriptor} (hp : p.overlay t = t) (hq : q.overlay t = t) (d : Descriptor) :
    p.overlay (q.overlay d) = q.overlay (p.overlay d) := by
  have register {α : Type} (f : Descriptor → Option α)
      (hf : ∀ p d, f (p.overlay d) = (f p).or (f d) := by exact fun _ _ => rfl) :
      (f p).or ((f q).or (f d)) = (f q).or ((f p).or (f d)) :=
    or_left_comm_of_or_eq ((hf p t).symm.trans (congrArg f hp)) ((hf q t).symm.trans (congrArg f hq)) (f d)
  simp only [Descriptor.overlay, Descriptor.mk.injEq]
  exact ⟨register (·.minute), register (·.second), register (·.sector), register (·.mode), register (·.isFiller),
    register (·.dataOff), register (·.dataLen), register (·.csumOff), register (·.csumLen), register (·.eccOff),
    register (·.eccLen), register (·.file), register (·.channel), register (·.submode), register (·.codinginfo),
    register (·.eor), register (·.typeVideo), register (·.typeAudio), register (·.typeData), register (·.trigger),
    register (·.form), register (·.realtime), register (·.eof)⟩

/-- The descriptor after field operations one by one. -/
def writeAll (ops : List Instr) (d : Descriptor) : Descriptor :=
  ops.foldl (fun d op => (written op).overlay d) d

/-- Field operations one after the other write the descriptor alone. -/
theorem execAll_eq_writeAll {d : Descriptor} {ops : List Instr} (hops : ∀ op ∈ ops, WritesHeld d op) (s : State) :
    execAll ops s = .next { s with desc := writeAll ops s.desc } := by
  induction ops generalizing s with
  | nil => rfl
  | cons op ops ih =>
    rw [execAll, (hops op List.mem_cons_self).exec_eq s]
    exact ih (fun x hx => hops x (List.mem_cons_of_mem op hx)) _

/-- Settles O23: a rearrangement of writes that commute, by `List.Perm.foldl_eq'`. -/
theorem fieldOperationOrderUnobservable : Obligations.FieldOperationOrderUnobservable := by
  intro B i hd ops hperm s
  have hall := writesHeld_of_mem_fieldOps hd
  have hops : ∀ op ∈ ops, WritesHeld (classDescriptor i) op := fun op hop => hall op (hperm.subset hop)
  have hsame : writeAll ops s.desc = writeAll (fieldOps i) s.desc :=
    hperm.foldl_eq' (fun x hx y hy => overlay_left_comm (hops y hy).held (hops x hx).held) s.desc
  exact ⟨_, execAll_eq_writeAll hops s, by rw [execAll_eq_writeAll hall s, hsame]⟩

end Sys2Proof.Machine
end
